-- ==== Sys2Proof/Word.lean ====
section
/-! DEFINITION. The widths of the engine's data: the 32-bit running CRC (R5, R6), the 8-bit byte of the
buffer space (R50), the 16-bit operand of `CRC32.H` (R121), and the two kinds of code word of R80. -/

namespace Sys2Proof

/-- A value of the CRC datapath: 32 bits, unsigned (R5, R8). -/
abbrev Word := BitVec 32

/-- One byte of the buffer space (R50). -/
abbrev Byte := BitVec 8

/-- The 2-byte operand of `CRC32.H` (R121). -/
abbrev Half := BitVec 16

/-- The two formats of R80: level 1, a 32-bit command word written to `CMD` (R81), and level 2, the 3-bit
select code `UOP` that the sequencer drives to the datapath (R82). The two never mix: a host cannot issue a
micro-operation, and the sequencer issues no command. -/
inductive CodeWord where
  /-- A value written to register `CMD`. -/
  | cmd (w : Word)
  /-- A value of the select code `UOP`. -/
  | uop (u : BitVec 3)
  deriving DecidableEq, Repr

end Sys2Proof
end

