-- ==== Sys2Proof/Config.lean ====
section
/-! DEFINITION. What one implementation of the engine fixes (the parameters of R5), the constants the spec
states (R5), and the free values: what the spec calls unspecified (R32, R175, R200, R211). -/

namespace Sys2Proof

/-- The parameters of R5 that the spec leaves OPEN (U12). They are configuration, constant for the life of an
instance; State carries them so that every statement holds of every instance (log entry 1). `LW = AW` (R5), so
one width serves `PTR` and `LEN`. -/
structure Params where
  /-- `AW`: width of a buffer address, of `PTR` and of `LEN`. -/
  aw : Nat
  /-- `HW_BUILD`: the CRC32 instruction wrapper is built into this instance. -/
  hwBuild : Bool
  /-- `HWCAP`: the capability flag, the native CRC32 instruction may be used (R110). -/
  hwcap : Bool
  /-- `REG_BASE`: where the platform maps register 0 (R33); no rule of the engine uses it. -/
  regBase : Nat
  /-- `REG_STRIDE`: the distance between two registers (R33); no rule of the engine uses it. -/
  regStride : Nat
  deriving DecidableEq, Repr

/-- The number of bytes of the buffer space, `2^AW` (R50). -/
def Params.space (p : Params) : Nat := 2 ^ p.aw

namespace Config

/-- `POLY_R`, the bit-reflected Castagnoli polynomial (R5, R101). -/
def polyR : Word := 0x82F63B78#32

/-- `INITIAL_CRC`, the seed a host writes for a fresh computation; host-side only (R5, D8). -/
def initialCrc : Word := 0xFFFFFFFF#32

/-- `FINAL_XOR`, the complement a consumer applies outside the engine (R5, R165, D9). -/
def finalXor : Word := 0xFFFFFFFF#32

/-- The instance `State.reset` describes. DESIGN CHOICE (log entry 1): the spec leaves every parameter OPEN;
`AW = 16`, `HW_BUILD = 1`, `HWCAP = 1` are the conventions of 95_test_vectors.md. -/
def instance0 : Params := { aw := 16, hwBuild := true, hwcap := true, regBase := 0, regStride := 4 }

/-- Free value: what the `n`-th draw leaves in `CRC` (R175, R200; U2, U3). No body: nothing can be proved of it. -/
opaque freeCrc : Nat → Word

/-- Free value: what the `n`-th draw leaves in `PTR`, before it is cut to `AW` bits (R175, R200; U2, U3). -/
opaque freePtr : Nat → Nat

/-- Free value: what the `n`-th draw leaves in `LEN`, before it is cut to `LW` bits (R175, R200; U2, U3). -/
opaque freeLen : Nat → Nat

/-- Free value: what the `n`-th draw leaves in the latch `PATH` (R200; U3). -/
opaque freePath : Nat → Bool

/-- Free value: what a host read of a busy `CRC`, `PTR` or `LEN` yields at the `n`-th draw, before it is cut to
the register's width (R211; U1). -/
opaque freeRead : Nat → Nat

end Config

end Sys2Proof
end

