-- ==== Sys2Proof/Machine/Event.lean ====
section
/-! DEFINITION. What reaches the engine from outside: host register accesses (R112, R113), the pseudo-instruction
`WAIT` (R88), the reset input (R200), and what the buffer's environment does (R62, R63); and the two things the
engine shows outside: the value of a host read, and an access of the buffer port. -/

namespace Sys2Proof.Machine

/-- The register numbers of R33. -/
inductive Reg where
  | crc | ptr | len | cmd | status
  /-- Register number 5, reserved. -/
  | reserved5
  /-- Register number 6, reserved. -/
  | reserved6
  /-- Register number 7, reserved. -/
  | reserved7
  deriving DecidableEq, Repr

/-- One turn at the engine's boundary. A list of turns is a schedule: which agent moves next, the host, the
engine, the reset input or an agent that owns the buffer memory (U11, D1). -/
inductive Event where
  /-- `RD reg` (R112). -/
  | read (r : Reg)
  /-- `WR reg, value` (R113); a value wider than the register is truncated there. -/
  | write (r : Reg) (v : Nat)
  /-- `WAIT` (R88): repeat `RD STATUS` until bit 0 of the value read is 0. -/
  | wait
  /-- The engine's turn: one step of the sequencer when busy, nothing when idle (R214). -/
  | engine
  /-- The reset input (R200). -/
  | reset
  /-- Another agent sets what the buffer port answers for one address: a byte, or the error response
  (R62, R63; U7, U16; log entry 12). -/
  | poke (a : Nat) (b : Option Byte)
  deriving DecidableEq, Repr

/-- What a host read yielded: the register and the value (R112), a number because `PTR` and `LEN` have the
width `AW`. -/
structure ReadBack where
  reg : Reg
  value : Nat
  deriving DecidableEq, Repr

/-- One read issued on the buffer port: the address of its first byte and its width in bytes (R57). -/
structure Access where
  addr : Nat
  width : Nat
  deriving DecidableEq, Repr

end Sys2Proof.Machine
end

