-- ==== Sys2Proof/Syntax.lean ====
section
/-! DEFINITION. The instructions: the nine rows of spec/opcode_table.json, four commands (R83) and five
micro-operations (R85). None has an operand field: R84, "The engine has no immediates", and the operands of
every row are the registers `CRC`, `PTR`, `LEN` and the buffer bytes at `PTR`. -/

namespace Sys2Proof

/-- One constructor per row of the opcode table. -/
inductive Instr where
  /-- `NOP`, command word `0x00000000` (R140). -/
  | nop
  /-- `UPDATE.SW`, command word `0x00000001` (R141). -/
  | updateSw
  /-- `UPDATE.HW`, command word `0x00000003` (R144). -/
  | updateHw
  /-- `CLRERR`, command word `0x00000004` (R148). -/
  | clrerr
  /-- `TBYTE`, select code `000` (R130). -/
  | tbyte
  /-- `SLICE8`, select code `011` (R131). -/
  | slice8
  /-- `CRC32.B`, select code `100` (R120). -/
  | crc32B
  /-- `CRC32.H`, select code `101` (R121). -/
  | crc32H
  /-- `CRC32.W`, select code `110` (R122). -/
  | crc32W
  deriving DecidableEq, Repr

end Sys2Proof
end

