-- ==== Sys2Proof/WellFormed.lean ====
section
/-! DEFINITION. What makes parameters, code words, instructions and boundary events well formed. -/

namespace Sys2Proof

/-- The constraints of R5: `AW >= 3`, and `HW_BUILD = false` implies `HWCAP = false`. -/
def Params.wf (p : Params) : Bool :=
  decide (3 ≤ p.aw) && (p.hwBuild || !p.hwcap)

/-- A code word that names an instruction, said by its fields: for `CMD` (R81, R83, R86), bits 31:3 zero, `CLR`
only alone, and `USE_HW` only with `START`; for `UOP` (R82, R86), of the table unit the sizes 1 and 8, of the
wrapper the sizes 1, 2 and 4. -/
def CodeWord.wf : CodeWord → Bool
  | .cmd w =>
      (w.extractLsb' 3 29 == 0#29) &&
      (if w.getLsbD 2 then !w.getLsbD 0 && !w.getLsbD 1 else w.getLsbD 0 || !w.getLsbD 1)
  | .uop u =>
      if u.getLsbD 2 then u.extractLsb' 0 2 != 3#2 else u.extractLsb' 0 2 == 0#2 || u.extractLsb' 0 2 == 3#2

/-- The instruction exists on the instance: the three folds of the wrapper only where it is built in
(R114: "the wrapper of `42_crc32_wrapper.md` does not exist"). -/
def Instr.wf (p : Params) : Instr → Bool
  | .nop => true
  | .updateSw => true
  | .updateHw => true
  | .clrerr => true
  | .tbyte => true
  | .slice8 => true
  | .crc32B => p.hwBuild
  | .crc32H => p.hwBuild
  | .crc32W => p.hwBuild

/-- The event names only what exists: a poke addresses a byte of the buffer space (R50). -/
def Machine.Event.wf (p : Params) : Machine.Event → Bool
  | .read _ => true
  | .write _ _ => true
  | .wait => true
  | .engine => true
  | .reset => true
  | .poke a _ => decide (a < p.space)

end Sys2Proof
end

