-- ==== Sys2Proof/Decode.lean ====
section
/-! DEFINITION. Decoding and encoding: the command map (R83), the micro-operation map (R85), the fields of the
two formats (R81, R82), and the same over bytes and over the opcode table's bit numbering. -/

namespace Sys2Proof

/-- Why a code word names no instruction. -/
inductive Reject where
  /-- A `CMD` value other than the four of R83: an illegal command (R86, R172). -/
  | illegalCommand (w : Word)
  /-- A reserved `UOP` code: `001`, `010` or `111` (R86). -/
  | reservedUop (u : BitVec 3)
  /-- A list of bytes that is neither one `UOP` byte nor one 4-byte command word. -/
  | badLength (n : Nat)
  /-- A `UOP` byte with a bit above bit 2 set. -/
  | badUopByte (b : Byte)
  deriving DecidableEq, Repr

/-- The command map of R83: the match is on all 32 bits. -/
def decodeCommand (w : Word) : Except Reject Instr :=
  if w = 0x00000000#32 then .ok .nop
  else if w = 0x00000001#32 then .ok .updateSw
  else if w = 0x00000003#32 then .ok .updateHw
  else if w = 0x00000004#32 then .ok .clrerr
  else .error (.illegalCommand w)

/-- The micro-operation map of R85. -/
def decodeUop (u : BitVec 3) : Except Reject Instr :=
  if u = 0b000#3 then .ok .tbyte
  else if u = 0b011#3 then .ok .slice8
  else if u = 0b100#3 then .ok .crc32B
  else if u = 0b101#3 then .ok .crc32H
  else if u = 0b110#3 then .ok .crc32W
  else .error (.reservedUop u)

/-- Decode one code word of either format (R80). -/
def decode : CodeWord → Except Reject Instr
  | .cmd w => decodeCommand w
  | .uop u => decodeUop u

/-- The code word of an instruction (R83, R85). -/
def encode : Instr → CodeWord
  | .nop => .cmd 0x00000000#32
  | .updateSw => .cmd 0x00000001#32
  | .updateHw => .cmd 0x00000003#32
  | .clrerr => .cmd 0x00000004#32
  | .tbyte => .uop 0b000#3
  | .slice8 => .uop 0b011#3
  | .crc32B => .uop 0b100#3
  | .crc32H => .uop 0b101#3
  | .crc32W => .uop 0b110#3

/-- Field `START` of the format `CMD` (R81). -/
def cmdStart (w : Word) : Bool := w.getLsbD 0

/-- Field `USE_HW` of the format `CMD` (R81). -/
def cmdUseHw (w : Word) : Bool := w.getLsbD 1

/-- Field `CLR` of the format `CMD` (R81). -/
def cmdClr (w : Word) : Bool := w.getLsbD 2

/-- Field `UNIT` of the format `UOP` (R82): true for the CRC32 instruction wrapper. -/
def uopUnit (u : BitVec 3) : Bool := u.getLsbD 2

/-- Field `SIZE` of the format `UOP` (R82). -/
def uopSize (u : BitVec 3) : Nat := (u.extractLsb' 0 2).toNat

/-- The number of bytes a micro-operation consumes, `2^SIZE` (R82). -/
def uopBytes (u : BitVec 3) : Nat := 2 ^ uopSize u

/-- The code word that a list of bytes holds, little-endian (DESIGN CHOICE, log entry 5: the engine stores no
code word, so the spec gives it no byte order): one byte is a `UOP` code, four bytes a command word. -/
def wordOfBytes : List Byte → Except Reject CodeWord
  | [b] => if b.extractLsb' 3 5 = 0#5 then .ok (.uop (b.extractLsb' 0 3)) else .error (.badUopByte b)
  | [b0, b1, b2, b3] => .ok (.cmd (b3 ++ b2 ++ b1 ++ b0))
  | bs => .error (.badLength bs.length)

/-- Decode any list of bytes, rejecting by name. -/
def decodeBytes (bs : List Byte) : Except Reject Instr :=
  match wordOfBytes bs with
  | .ok cw => decode cw
  | .error e => .error e

/-- The bytes of a code word, in the order `wordOfBytes` reads. -/
def bytesOfWord : CodeWord → List Byte
  | .cmd w => [w.extractLsb' 0 8, w.extractLsb' 8 8, w.extractLsb' 16 8, w.extractLsb' 24 8]
  | .uop u => [u.setWidth 8]

/-- The bytes of an instruction's code word. -/
def encodeBytes (i : Instr) : List Byte := bytesOfWord (encode i)

/-- The low `n` bytes of `w`, the lowest first. -/
def bytesOfNat : Nat → Nat → List Byte
  | 0, _ => []
  | n + 1, w => BitVec.ofNat 8 w :: bytesOfNat n (w / 256)

/-- The decoder on an instruction whose bits are `w`, numbered as spec/opcode_table.json numbers them. A row of
the format `UOP` has 3 bits, one whole byte; a row of the format `CMD` has 32. -/
def decodeTableWord (nbits w : Nat) : Option Instr :=
  match decodeBytes (bytesOfNat (if nbits ≤ 8 then 1 else 4) w) with
  | .ok i => if w < 2 ^ min nbits 32 then some i else none
  | .error _ => none

end Sys2Proof
end

