-- ==== Sys2Proof/Machine/State.lean ====
section
/-! DEFINITION. The state of one engine instance and of its boundary, and the state after reset. -/

namespace Sys2Proof.Machine

/-- The path an `UPDATE` was accepted on: the latch `PATH` of R28, 0 the software path, 1 the hardware path. -/
inductive Path where
  | sw | hw
  deriving DecidableEq, Repr

/-- The buffer space (R50): the addresses that answer a read with a byte, each with its byte. An address not
listed answers with the error response (R60: "an unreadable address answers with the error response"; log
entries 10 and 11). -/
abbrev Memory := List Host.Cell

/-- The canonical form of a memory: addresses strictly rising, every one inside the buffer space. No entry can
equal what an unlisted address reads as, since that is no byte. -/
abbrev Memory.wf (p : Params) (m : Memory) : Prop :=
  m.Pairwise (fun x y => x.1 < y.1) ∧ ∀ c ∈ m, c.1 < p.space

/-- Everything the spec gives the engine (R20), with its parameters (R5), its buffer space (R50) and its
boundary. `inbox`, `outbox`, `accesses` and `draws` are the model's own (log entries 2, 3 and 4): nothing the
engine does depends on `outbox` or `accesses`. -/
structure State where
  /-- The instance's parameters (R5): constants, no step changes them. -/
  params : Params
  /-- `CRC`, the running CRC (R21). -/
  crc : Word
  /-- `PTR`, an `AW`-bit address (R22); below `2^AW` in every state that meets the invariant
  (log entry 14). -/
  ptr : Nat
  /-- `LEN`, an `LW = AW`-bit count (R23); below `2^AW` in every state that meets the invariant. -/
  len : Nat
  /-- `STATUS.BUSY` (R25, R27). -/
  busy : Bool
  /-- `STATUS.DONE` (R25, R27). -/
  done : Bool
  /-- `STATUS.ERR` (R25, R27). -/
  err : Bool
  /-- `STATUS.ECODE` (R27). -/
  ecode : BitVec 3
  /-- `PATH` (R28). -/
  path : Path
  /-- The content of the buffer space (R50), the environment's. -/
  mem : Memory
  /-- The turns still to come, the next first (log entry 2). -/
  inbox : List Event
  /-- What the host's reads have yielded, oldest first (log entry 3). -/
  outbox : List ReadBack
  /-- The reads issued on the buffer port, oldest first (log entry 3). -/
  accesses : List Access
  /-- How many times free values have been drawn (log entry 4). -/
  draws : Nat
  deriving DecidableEq, Repr

/-- Where the model stops with a fault. No instruction faults: the engine's own errors (R171) are next states. -/
inductive Fault where
  /-- Raised by a `poke` event that names an address outside the buffer space: R50 gives the space `2^AW` bytes,
  so no such byte exists. Safe: the model stops. -/
  | noSuchAddress
  deriving DecidableEq, Repr

/-- Where the model gives no meaning. -/
inductive Refusal where
  /-- Raised only by an arm of `exec` that has no meaning yet; no arm has this now. Safe. -/
  | notModelled (mnemonic : String)
  /-- Raised by `CRC32.B`, `CRC32.H` and `CRC32.W` in a state whose instance has no usable wrapper: with
  `HW_BUILD = 0` the wrapper does not exist (R114), with `HWCAP = 0` it "must not run" (R173). The sequencer
  never asks for it there (R144). Safe: the model stops. -/
  | wrapperUnavailable
  /-- Raised by the sequencer's datapath on a reserved `UOP` code (R86, treatment `refuse` of U9; log entry 17),
  which the sequencer never drives. Safe: the model stops. -/
  | reservedUop
  deriving DecidableEq, Repr

/-- The state right after reset (R32, R200) of an instance with the parameters `p`: idle, no error, nothing
listed in memory, nothing waiting. `CRC`, `PTR`, `LEN` and `PATH` have no reset value in the spec: zero and the
software path, DESIGN CHOICE, unsafe (log entry 6). -/
def State.powerOn (p : Params) : State :=
  { params := p, crc := 0#32, ptr := 0, len := 0, busy := false, done := false, err := false, ecode := 0#3,
    path := .sw, mem := [], inbox := [], outbox := [], accesses := [], draws := 0 }

/-- The state right after reset of the instance `Config.instance0` (log entry 1). -/
def State.reset : State := State.powerOn Config.instance0

end Sys2Proof.Machine
end

