-- ==== Sys2Proof/Machine/Ops.lean ====
section
/-! DEFINITION. The named operations over the buffer space and the registers: reading a byte, the environment's
change of one byte, advancing `PTR` and `LEN`, entering the error state and leaving it, reset. -/

namespace Sys2Proof.Machine

/-! ### The buffer space -/

/-- The byte at an address, or none where the port answers with the error response (R50, R60, R62). -/
def Memory.read : Memory → Nat → Option Byte
  | [], _ => none
  | (k, b) :: m, a => if k = a then some b else Memory.read m a

/-- The memory with `b` at address `a`, in canonical form. -/
def Memory.store : Memory → Nat → Byte → Memory
  | [], a, b => [(a, b)]
  | (k, c) :: m, a, b =>
      if a < k then (a, b) :: (k, c) :: m
      else if a = k then (a, b) :: m
      else (k, c) :: Memory.store m a b

/-- The memory with address `a` unreadable. -/
def Memory.remove (m : Memory) (a : Nat) : Memory := m.filter (fun c => c.1 != a)

/-- The memory after another agent has set what the port answers for address `a` (R62, R63; U7, U16). -/
def Memory.poke (m : Memory) (a : Nat) : Option Byte → Memory
  | some b => m.store a b
  | none => m.remove a

/-- The byte the port answers for an address: none outside the `2^AW` bytes of R50. -/
def State.readByte (s : State) (a : Nat) : Option Byte :=
  if a < s.params.space then s.mem.read a else none

/-- The bytes at `a`, `a+1`, ..., `a+n-1`, where the port answers every one. -/
def State.readBytes (s : State) (a : Nat) : Nat → Option (List Byte)
  | 0 => some []
  | n + 1 =>
      match s.readByte a, s.readBytes (a + 1) n with
      | some b, some bs => some (b :: bs)
      | _, _ => none

/-- Another agent's change of one byte of the buffer space. -/
def State.poke (s : State) (a : Nat) (b : Option Byte) : State := { s with mem := s.mem.poke a b }

/-- Record a read issued on the buffer port (R57). -/
def State.noteRead (s : State) (a n : Nat) : State := { s with accesses := s.accesses ++ [⟨a, n⟩] }

/-! ### The datapath registers -/

/-- Write `CRC` (R21). -/
def State.setCrc (s : State) (v : Word) : State := { s with crc := v }

/-- Write `PTR`, cut to `AW` bits (R22, R113). -/
def State.setPtr (s : State) (v : Nat) : State := { s with ptr := v % s.params.space }

/-- Write `LEN`, cut to `LW = AW` bits (R23, R113). -/
def State.setLen (s : State) (v : Nat) : State := { s with len := v % s.params.space }

/-- The update of `PTR` and `LEN` by a micro-operation that consumed `n` bytes (R22, R23, R156), each in its
`AW` bits: `PTR` may end at 0 after a buffer that ends at `2^AW` (R9), `LEN` never goes below zero (R9; log
entry 14). -/
def State.advance (s : State) (n : Nat) : State :=
  { s with ptr := (s.ptr + n) % s.params.space,
           len := (s.len + s.params.space - n) % s.params.space }

/-! ### The error state -/

/-- The four error causes of R171. -/
inductive ErrCause where
  | illegalCmd | noHw | range | busError
  deriving DecidableEq, Repr

/-- The code of a cause in `STATUS.ECODE` (R27, R171). -/
def ErrCause.code : ErrCause → BitVec 3
  | .illegalCmd => 1#3
  | .noHw => 2#3
  | .range => 3#3
  | .busError => 4#3

/-- `CRC`, `PTR` and `LEN` become unspecified (R175): three free values, drawn independently (U2). -/
def State.clobber (s : State) : State :=
  { s with crc := Config.freeCrc s.draws,
           ptr := Config.freePtr s.draws % s.params.space,
           len := Config.freeLen s.draws % s.params.space,
           draws := s.draws + 1 }

/-- The four flag changes of `raise E` (R176), one atomic change. -/
def State.enterError (s : State) (e : ErrCause) : State :=
  { s with err := true, ecode := e.code, busy := false, done := false }

/-- `raise E` (R176): enter the error state with that cause. Nothing is saved and control goes nowhere; for
`BusError` the three datapath registers become unspecified too (R175). -/
def State.raise (s : State) : ErrCause → State
  | .illegalCmd => s.enterError .illegalCmd
  | .noHw => s.enterError .noHw
  | .range => s.enterError .range
  | .busError => (s.enterError .busError).clobber

/-- Leave the error state (R148, R179): `ERR` and `ECODE` to 0, and nothing else; entry saved nothing. -/
def State.leaveError (s : State) : State := { s with err := false, ecode := 0#3 }

/-! ### Reset -/

/-- The reset event (R200): the flags and `ECODE` to 0; `CRC`, `PTR`, `LEN`, `PATH` unspecified, drawn as free
values (U3); the parameters untouched. The buffer space and the boundary are not the engine's (R20; log
entry 20). -/
def State.resetEvent (s : State) : State :=
  { s with crc := Config.freeCrc s.draws,
           ptr := Config.freePtr s.draws % s.params.space,
           len := Config.freeLen s.draws % s.params.space,
           path := if Config.freePath s.draws then .hw else .sw,
           busy := false, done := false, err := false, ecode := 0#3,
           draws := s.draws + 1 }

/-! ### Outcomes -/

/-- Apply a function to the next state of an outcome; a fault or a refusal stays. -/
def mapNext (f : State → State) : Host.Outcome State Fault Refusal → Host.Outcome State Fault Refusal
  | .next s => .next (f s)
  | .fault r => .fault r
  | .refused r => .refused r

end Sys2Proof.Machine
end

