-- ==== Sys2Proof/Machine/Flags.lean ====
section
/-! DEFINITION. The status flags: their changes at acceptance (R141, R144) and at completion (R147), and the word
a host reads from `STATUS` (R27). The datapath has no condition codes (R25). -/

namespace Sys2Proof.Machine

/-- The acceptance of an `UPDATE` on a path, after its checks (R141, R144): `PATH` latched, `DONE` cleared; with
`LEN = 0` it completes at once, `DONE` set and `BUSY` never set (R154), else `BUSY` is set. -/
def State.accept (s : State) (p : Path) : State :=
  if s.len = 0 then { s with path := p, done := true }
  else { s with path := p, done := false, busy := true }

/-- Completion (R147): the last line of the step rules R143 and R146. It belongs to a step that raised nothing,
since the rest of a step is not executed after a `raise` (R10), and `raise` has cleared `BUSY` (log entry 15). -/
def State.complete (s : State) : State :=
  if s.busy = true ∧ s.len = 0 then { s with busy := false, done := true } else s

/-- The word of register `STATUS`: `{24'b0, HW_BUILD, HWCAP, ECODE[2:0], ERR, DONE, BUSY}` (R27, R112). -/
def State.statusWord (s : State) : Word :=
  (0#24 ++ BitVec.ofBool s.params.hwBuild ++ BitVec.ofBool s.params.hwcap ++ s.ecode ++ BitVec.ofBool s.err ++
    BitVec.ofBool s.done ++ BitVec.ofBool s.busy : BitVec 32)

end Sys2Proof.Machine
end

