-- ==== Sys2Proof/Machine/Operands.lean ====
section
/-! DEFINITION. Operand assembly: the table indices cut from a 32-bit value (R84), the little-endian words of the
buffer (R51, R52), and `MemRead` at its three widths (R10, R52, R57). -/

namespace Sys2Proof.Machine

/-- Byte `k` of a 32-bit value, `v[8k+7:8k]`, `(v >> 8k) & 0xFF` (R84). -/
def byteOf (v : Word) (k : Nat) : Byte := v.extractLsb' (8 * k) 8

/-- `zext_32(b)` of a byte (R7). -/
def zext (b : Byte) : Word := b.setWidth 32

/-- Two bytes as a 16-bit value, the lower-addressed byte in the low bits (R52). -/
def le16 (b0 b1 : Byte) : Half := b1 ++ b0

/-- Four bytes as a 32-bit value, the lower-addressed byte in the low bits (R51, R52). -/
def le32 (b0 b1 b2 b3 : Byte) : Word := le16 b2 b3 ++ le16 b0 b1

/-- `MemRead(a, 1)` (R52); none is the error response (R62). -/
def State.memRead1 (s : State) (a : Nat) : Option Byte := s.readByte a

/-- `MemRead(a, 2)` at any alignment (R52, R56). -/
def State.memRead2 (s : State) (a : Nat) : Option Half :=
  match s.readByte a, s.readByte (a + 1) with
  | some b0, some b1 => some (le16 b0 b1)
  | _, _ => none

/-- `MemRead(a, 4)` at any alignment (R52, R56). -/
def State.memRead4 (s : State) (a : Nat) : Option Word :=
  match s.memRead2 a, s.memRead2 (a + 2) with
  | some h0, some h1 => some (h1 ++ h0)
  | _, _ => none

end Sys2Proof.Machine
end

