-- ==== Sys2Proof/Machine/Commands.lean ====
section
/-! DEFINITION. The four commands (R140, R141, R144, R148). A meaning assumes that the write was not discarded:
the tests of R177 (1) and (2) stand in `Machine/HostPort.lean`. -/

namespace Sys2Proof.Machine

/-- The range check and the acceptance that both `UPDATE` commands end in (R141, R144, R174): the sum is taken
over the integers, and a refused command has had no effect. An `UPDATE` before the
registers were written since reset runs over whatever they hold (U5; log entry 9). -/
def State.acceptInRange (s : State) (p : Path) : State :=
  if s.params.space < s.ptr + s.len then s.raise .range else s.accept p

/-- `NOP` (R140): no state changes. -/
def execNop (s : State) : Host.Outcome State Fault Refusal := .next s

/-- `UPDATE.SW` (R141). -/
def execUpdateSw (s : State) : Host.Outcome State Fault Refusal := .next (s.acceptInRange .sw)

/-- `UPDATE.HW` (R144): the capability check first, then the range check; in a build without the wrapper the
command runs the software path (R114). -/
def execUpdateHw (s : State) : Host.Outcome State Fault Refusal :=
  if s.params.hwBuild = true ∧ s.params.hwcap = false then .next (s.raise .noHw)
  else .next (s.acceptInRange (if s.params.hwBuild then .hw else .sw))

/-- `CLRERR` (R148). -/
def execClrerr (s : State) : Host.Outcome State Fault Refusal := .next s.leaveError

end Sys2Proof.Machine
end

