-- ==== Sys2Proof/Machine/Tables.lean ====
section
/-! DEFINITION. The Table Set (R100 to R106) and the five pure functions of the datapath: `TBYTE` (R130),
`SLICE8` (R131), `CRC32_B`, `CRC32_H`, `CRC32_W` (R120 to R122), with the reference function `Fold` (R11). -/

namespace Sys2Proof.Machine

/-! ### The Table Set -/

/-- One shift of the generation of table 0 (R101). -/
def bitStep (c : Word) : Word := if c.getLsbD 0 then (c >>> 1) ^^^ Config.polyR else c >>> 1

/-- `n` shifts of R101. -/
def bitSteps : Nat → Word → Word
  | 0, c => c
  | n + 1, c => bitSteps n (bitStep c)

/-- Table 0: eight shifts from the zero-extended index (R101). -/
def table0 (i : Byte) : Word := bitSteps 8 (zext i)

/-- `T[k][i]`: table 0 by R101, tables 1 to 7 by the recurrence of R102. The Table Set is `table 0` to
`table 7`; the recurrence is written for every `k` and the datapath reads no other table. -/
def table : Nat → Byte → Word
  | 0, i => table0 i
  | k + 1, i => (table k i >>> 8) ^^^ table0 (byteOf (table k i) 0)

/-! ### The software path's folds -/

/-- `TBYTE(c, b) = T[0][(c ^ zext_32(b)) & 0xFF] ^ (c >> 8)` (R130). -/
def tbyteFn (c : Word) (b : Byte) : Word := table 0 (byteOf (c ^^^ zext b) 0) ^^^ (c >>> 8)

/-- `Z(c)`, the fold of one zero byte (R102). -/
def zeroFold (c : Word) : Word := table 0 (byteOf c 0) ^^^ (c >>> 8)

/-- The first four lookups of a bulk step, in the tables of lanes 7, 6, 5, 4, on `x = c ^ w1` (R131, R132). -/
def sliceTerm (x : Word) : Word :=
  table 7 (byteOf x 0) ^^^ table 6 (byteOf x 1) ^^^ table 5 (byteOf x 2) ^^^ table 4 (byteOf x 3)

/-- `SLICE8(c, w1, w2)`: the intermediate term with the four lookups in the tables of lanes 3, 2, 1, 0 on the
bytes of `w2` (R131, R132). -/
def slice8Fn (c w1 w2 : Word) : Word :=
  sliceTerm (c ^^^ w1) ^^^ table 3 (byteOf w2 0) ^^^ table 2 (byteOf w2 1) ^^^ table 1 (byteOf w2 2) ^^^
    table 0 (byteOf w2 3)

/-! ### The hardware path's folds -/

/-- `CRC32_B(c, b)` (R120). -/
def crc32BFn (c : Word) (b : Byte) : Word := tbyteFn c b

/-- `CRC32_H(c, h)`: the low byte of the operand first (R121). -/
def crc32HFn (c : Word) (h : Half) : Word := tbyteFn (tbyteFn c (h.extractLsb' 0 8)) (h.extractLsb' 8 8)

/-- `CRC32_W(c, w)`: the bytes of the operand from the least significant upward (R122). -/
def crc32WFn (c w : Word) : Word :=
  tbyteFn (tbyteFn (tbyteFn (tbyteFn c (byteOf w 0)) (byteOf w 1)) (byteOf w 2)) (byteOf w 3)

/-! ### The reference function -/

/-- `Fold(c, bs)` (R11). -/
def fold (c : Word) : List Byte → Word
  | [] => c
  | b :: bs => fold (tbyteFn c b) bs

end Sys2Proof.Machine
end

