-- ==== Sys2Proof/Machine/Folds.lean ====
section
/-! DEFINITION. The five micro-operations (R130, R131, R120 to R122): memory read, function, register update. No
micro-operation writes a flag; `BusError` is raised when a read gets the error response (R175). Completion
(R147) is the step's, in `Machine/Sequencer.lean`. -/

namespace Sys2Proof.Machine

/-- The register update of a micro-operation that consumed `n` bytes: `CRC`, then `PTR` and `LEN` (R156). -/
def State.retire (s : State) (v : Word) (n : Nat) : State := (s.setCrc v).advance n

/-- A 1-byte fold at `PTR` with the function `f` (R120, R130). -/
def State.fold1 (s : State) (f : Word → Byte → Word) : State :=
  match s.memRead1 s.ptr with
  | some b => (s.noteRead s.ptr 1).retire (f s.crc b) 1
  | none => (s.noteRead s.ptr 1).raise .busError

/-- A 2-byte fold at `PTR`, any alignment (R121). -/
def State.fold2 (s : State) (f : Word → Half → Word) : State :=
  match s.memRead2 s.ptr with
  | some h => (s.noteRead s.ptr 2).retire (f s.crc h) 2
  | none => (s.noteRead s.ptr 2).raise .busError

/-- A 4-byte fold at `PTR`, any alignment (R122). -/
def State.fold4 (s : State) (f : Word → Word → Word) : State :=
  match s.memRead4 s.ptr with
  | some w => (s.noteRead s.ptr 4).retire (f s.crc w) 4
  | none => (s.noteRead s.ptr 4).raise .busError

/-- An 8-byte fold at `PTR`: two 4-byte reads, the second issued only when the first is served (R131, R175). -/
def State.fold8 (s : State) (f : Word → Word → Word → Word) : State :=
  match s.memRead4 s.ptr with
  | none => (s.noteRead s.ptr 4).raise .busError
  | some w1 =>
      match s.memRead4 (s.ptr + 4) with
      | some w2 => ((s.noteRead s.ptr 4).noteRead (s.ptr + 4) 4).retire (f s.crc w1 w2) 8
      | none => ((s.noteRead s.ptr 4).noteRead (s.ptr + 4) 4).raise .busError

/-- A fold of the CRC32 instruction wrapper: it exists only with `HW_BUILD = 1` (R114) and must not run with
`HWCAP = 0`, where it "has nothing behind it" (R173; log entry 16). -/
def State.wrapper (s : State) (t : State) : Host.Outcome State Fault Refusal :=
  if s.params.hwBuild = true ∧ s.params.hwcap = true then .next t else .refused .wrapperUnavailable

/-- `TBYTE` (R130). -/
def execTbyte (s : State) : Host.Outcome State Fault Refusal := .next (s.fold1 tbyteFn)

/-- `SLICE8` (R131). -/
def execSlice8 (s : State) : Host.Outcome State Fault Refusal := .next (s.fold8 slice8Fn)

/-- `CRC32.B` (R120). -/
def execCrc32B (s : State) : Host.Outcome State Fault Refusal := s.wrapper (s.fold1 crc32BFn)

/-- `CRC32.H` (R121). -/
def execCrc32H (s : State) : Host.Outcome State Fault Refusal := s.wrapper (s.fold2 crc32HFn)

/-- `CRC32.W` (R122). -/
def execCrc32W (s : State) : Host.Outcome State Fault Refusal := s.wrapper (s.fold4 crc32WFn)

end Sys2Proof.Machine
end

