-- ==== Sys2Proof/Machine/Dispatch.lean ====
section
/-! DEFINITION. One arm per constructor of `Instr`, one meaning each. -/

namespace Sys2Proof.Machine

def exec (i : Instr) (s : State) : Host.Outcome State Fault Refusal :=
  match i with
  -- commands
  | .nop => Sys2Proof.Machine.execNop s
  | .updateSw => Sys2Proof.Machine.execUpdateSw s
  | .updateHw => Sys2Proof.Machine.execUpdateHw s
  | .clrerr => Sys2Proof.Machine.execClrerr s
  -- micro-operations
  | .tbyte => Sys2Proof.Machine.execTbyte s
  | .slice8 => Sys2Proof.Machine.execSlice8 s
  | .crc32B => Sys2Proof.Machine.execCrc32B s
  | .crc32H => Sys2Proof.Machine.execCrc32H s
  | .crc32W => Sys2Proof.Machine.execCrc32W s

end Sys2Proof.Machine
end

