-- ==== Sys2Proof/Machine/Sequencer.lean ====
section
/-! DEFINITION. The sequencer: the micro-operation it drives next, a function of `PATH`, `PTR[1:0]` and `LEN` only
(R24, R143, R146), and one step of a busy engine. -/

namespace Sys2Proof.Machine

/-- The select code of the software step rule (R143). -/
def softwareUop (ptr len : Nat) : BitVec 3 := if ptr % 4 ≠ 0 ∨ len < 8 then 0b000#3 else 0b011#3

/-- The select code of the hardware step rule (R146): it never looks at `PTR`. -/
def hardwareUop (len : Nat) : BitVec 3 :=
  if 4 ≤ len then 0b110#3 else if 2 ≤ len then 0b101#3 else 0b100#3

/-- The select code `UOP` that the sequencer drives in this state (R80, R143, R146). -/
def State.nextUop (s : State) : BitVec 3 :=
  match s.path with
  | .sw => softwareUop s.ptr s.len
  | .hw => hardwareUop s.len

/-- The engine's turn (R214). Busy: one step, the micro-operation that `UOP` selects and then the completion
test (R143, R146, R147). Idle: nothing happens until the next command. -/
def engineStep (s : State) : Host.Outcome State Fault Refusal :=
  if s.busy then
    match decode (.uop s.nextUop) with
    | .ok i => mapNext State.complete (exec i s)
    | .error _ => .refused .reservedUop
  else .next s

/-- `n` turns of the engine with no event between them, stopping at the first fault or refusal. -/
def engineRun : Nat → State → Host.Outcome State Fault Refusal
  | 0, s => .next s
  | n + 1, s =>
      match engineStep s with
      | .next t => engineRun n t
      | .fault r => .fault r
      | .refused r => .refused r

/-- The micro-operations a busy engine takes in its next `n` turns, as instructions, until it is idle (R149). -/
def uopTrace : Nat → State → List Instr
  | 0, _ => []
  | n + 1, s =>
      if s.busy then
        match decode (.uop s.nextUop), engineStep s with
        | .ok i, .next t => i :: uopTrace n t
        | _, _ => []
      else []

end Sys2Proof.Machine
end

