-- ==== Sys2Proof/Machine/HostPort.lean ====
section
/-! DEFINITION. The host's side: register numbers (R33), `RD` (R112), `WR` (R113) with the priority of R177, and
what each event at the boundary does. -/

namespace Sys2Proof.Machine

/-- The number of a register (R33). -/
def Reg.number : Reg → BitVec 3
  | .crc => 0#3
  | .ptr => 1#3
  | .len => 2#3
  | .cmd => 3#3
  | .status => 4#3
  | .reserved5 => 5#3
  | .reserved6 => 6#3
  | .reserved7 => 7#3

/-- The register of a number (R33). -/
def Reg.ofNumber (n : BitVec 3) : Reg :=
  if n = 0#3 then .crc else if n = 1#3 then .ptr else if n = 2#3 then .len else if n = 3#3 then .cmd
  else if n = 4#3 then .status else if n = 5#3 then .reserved5 else if n = 6#3 then .reserved6 else .reserved7

/-- The bus address of a register, `REG_BASE + n * REG_STRIDE` (R33). -/
def Reg.busAddress (p : Params) (r : Reg) : Nat := p.regBase + r.number.toNat * p.regStride

/-- A read of a datapath register (R112): its value when idle, any value of its width while busy (R211; U1). -/
def State.readData (s : State) (value width : Nat) : Nat :=
  if s.busy then Config.freeRead s.draws % 2 ^ width else value

/-- The value that `RD reg` yields (R112). -/
def State.readValue (s : State) : Reg → Nat
  | .crc => s.readData s.crc.toNat 32
  | .ptr => s.readData s.ptr s.params.aw
  | .len => s.readData s.len s.params.aw
  | .cmd => 0
  | .status => s.statusWord.toNat
  | .reserved5 => 0
  | .reserved6 => 0
  | .reserved7 => 0

/-- Whether `RD reg` draws a free value (R211). -/
def State.readDraws (s : State) : Reg → Bool
  | .crc => s.busy
  | .ptr => s.busy
  | .len => s.busy
  | .cmd => false
  | .status => false
  | .reserved5 => false
  | .reserved6 => false
  | .reserved7 => false

/-- `RD reg` (R112): the host gets the value; the engine's state does not change. -/
def State.hostRead (s : State) (r : Reg) : State :=
  { s with outbox := s.outbox ++ [⟨r, s.readValue r⟩],
           draws := if s.readDraws r then s.draws + 1 else s.draws }

/-- A write of `w` to `CMD` (R113), the tests in the order of R177. -/
def commandWrite (w : Word) (s : State) : Host.Outcome State Fault Refusal :=
  if s.busy = true then .next s
  else if s.err = true ∧ w ≠ 0x00000004#32 then .next s
  else
    match decode (.cmd w) with
    | .ok i => exec i s
    | .error _ => .next (s.raise .illegalCmd)

/-- `WR reg, value` (R113): a datapath register is written when idle, in the error state too; `CMD` issues a
command; every other write is discarded. -/
def hostWrite (r : Reg) (v : Nat) (s : State) : Host.Outcome State Fault Refusal :=
  match r with
  | .crc => .next (if s.busy then s else s.setCrc (BitVec.ofNat 32 v))
  | .ptr => .next (if s.busy then s else s.setPtr v)
  | .len => .next (if s.busy then s else s.setLen v)
  | .cmd => commandWrite (BitVec.ofNat 32 v) s
  | .status => .next s
  | .reserved5 => .next s
  | .reserved6 => .next s
  | .reserved7 => .next s

/-- One poll of `WAIT` (R88): `RD STATUS`; while the `BUSY` it reads is 1, the engine gets a turn and the host
polls again. One turn between two polls is a DESIGN CHOICE (log entry 7); any other number of turns is written
out with `engine` events. -/
def State.waitPoll (s : State) : State :=
  if s.busy then { s.hostRead .status with inbox := .engine :: .wait :: s.inbox } else s.hostRead .status

/-- What one event does to the machine whose inbox it has left. -/
def handle (e : Event) (s : State) : Host.Outcome State Fault Refusal :=
  match e with
  | .read r => .next (s.hostRead r)
  | .write r v => hostWrite r v s
  | .wait => .next s.waitPoll
  | .engine => engineStep s
  | .reset => .next s.resetEvent
  | .poke a b => if a < s.params.space then .next (s.poke a b) else .fault .noSuchAddress

/-- Take the next event off the inbox; with none waiting, the engine has the turn. -/
def turn (s : State) : Host.Outcome State Fault Refusal :=
  match s.inbox with
  | [] => engineStep s
  | e :: rest => handle e { s with inbox := rest }

/-- The state made ready to run the select code `u` on its next engine turn: busy, on the code's path, with a
`LEN` and a `PTR` for which the step rules (R143, R146) select `u`. `PTR` is kept where the bytes at it fit the
space and the rule allows it, else it is 0. -/
def State.withUop (s : State) (u : BitVec 3) : State :=
  let n := uopBytes u
  { s with busy := true, done := false, err := false, ecode := 0#3,
           path := if uopUnit u then .hw else .sw,
           len := n,
           ptr := if s.ptr + n ≤ s.params.space ∧ (n = 8 → s.ptr % 4 = 0) then s.ptr else 0,
           inbox := .engine :: s.inbox }

/-- The state in which the host's next action is the write of `w` to `CMD`, in a state where it is not discarded
(R177): idle, and out of the error state unless the word is `CLRERR`'s. -/
def State.withCommand (s : State) (w : Word) : State :=
  { s with busy := false,
           err := if w = 0x00000004#32 then s.err else false,
           ecode := if w = 0x00000004#32 then s.ecode else 0#3,
           inbox := .write .cmd w.toNat :: s.inbox }

end Sys2Proof.Machine
end

