-- ==== Sys2Proof/Machine/Step.lean ====
section
/-! DEFINITION. The step: the next event, or the engine's turn (`Machine/HostPort.lean`); and how an instruction
comes to be the next thing that runs. -/

namespace Sys2Proof.Machine

/-- One step of the machine: three outcomes, next, fault, refusal. -/
def step (s : State) : Host.Outcome State Fault Refusal := turn s

/-- `s` with the instruction whose bits are `w` where the next step takes it from (log entry 8). The engine
fetches nothing (R24): a command arrives as a host write of `CMD`, and the sequencer selects a micro-operation
from `PATH`, `PTR` and `LEN`. -/
def State.withFetchWord (s : State) (nbits w : Nat) : State :=
  if nbits ≤ 8 then s.withUop (BitVec.ofNat 3 w) else s.withCommand (BitVec.ofNat 32 w)

end Sys2Proof.Machine
end

