-- ==== Sys2Proof/Machine/HostSeq.lean ====
section
/-! DEFINITION. The pseudo-instructions of R88 and the host sequences of 45_adapters.md (R160 to R165) as lists of
events. They add nothing to the engine: every entry is a register access, a `WAIT`, or a file read's effect on
the buffer memory. -/

namespace Sys2Proof.Machine

/-- The host line that issues a command: `WR CMD` of the command's word (R87). -/
def issue (w : Word) : Event := .write .cmd w.toNat

/-- The host line of an `UPDATE` on the path the host asks for (R160). -/
def issueUpdate (hw : Bool) : Event := issue (if hw then 0x00000003#32 else 0x00000001#32)

/-- `DETECT` (R88, R111). -/
def seqDetect : List Event := [.read .status]

/-- The result of `DETECT`: bit 6 of the value that `RD STATUS` yielded (R111). -/
def detectResult (v : Nat) : Bool := v.testBit 6

/-- `SEED` (R88). -/
def seqSeed : List Event := [.write .crc Config.initialCrc.toNat]

/-- `CONTINUE a, n, hw` (R88, R160). -/
def seqContinue (a n : Nat) (hw : Bool) : List Event :=
  [.write .ptr a, .write .len n, issueUpdate hw, .wait, .read .crc]

/-- `UPDATE c, a, n, hw` (R88, R160). -/
def seqUpdate (c : Word) (a n : Nat) (hw : Bool) : List Event := .write .crc c.toNat :: seqContinue a n hw

/-- `STRSUM a, n, hw` (R88, R161). -/
def seqStrsum (a n : Nat) (hw : Bool) : List Event := seqUpdate Config.initialCrc a n hw

/-- `FINAL`, the host's computation on the value it read from `CRC` (R165). -/
def finalValue (v : Word) : Word := v ^^^ Config.finalXor

/-- What one blocking file read gave the host (R162, R163). -/
inductive FileRead where
  | data (bs : List Byte)
  | ioError
  deriving DecidableEq, Repr

/-- How a `FILESUM` sequence ends. -/
inductive FileEnd where
  /-- A read returned fewer bytes than asked for: the last `RD CRC` is the result (R162). -/
  | checksum
  /-- A read failed: `IoError`, no further engine command (R163). -/
  | ioError
  /-- The file reads given do not reach an end: the host is still reading. -/
  | reading
  deriving DecidableEq, Repr

/-- A file read puts its bytes in the buffer at `a`: memory is written by the host, not by the engine. -/
def loadBytes (a : Nat) : List Byte → List Event
  | [] => []
  | b :: bs => .poke a (some b) :: loadBytes (a + 1) bs

/-- The loop of R162, over the results of the reads of up to `cap` bytes (a result longer than that, log entry 22). -/
def seqFileLoop (buf cap : Nat) (hw : Bool) : List FileRead → List Event × FileEnd
  | [] => ([], .reading)
  | .ioError :: _ => ([], .ioError)
  | .data bs :: rest =>
      let evs := loadBytes buf bs ++ seqContinue buf bs.length hw
      if bs.length < cap then (evs ++ [.read .crc], .checksum)
      else
        let r := seqFileLoop buf cap hw rest
        (evs ++ r.1, r.2)

/-- `FILESUM` (R162): the first read fills the buffer from `start`, and the bytes already below it are folded
with the bytes read; then the loop, while a read fills the buffer (for `start` above 0 and an empty file, log entry
19). The spec gives no meaning to `start` above `cap`: DESIGN CHOICE, log entry 22, the count asked for is then 0,
since the subtraction of natural numbers stops at 0, and an empty first read goes on to the loop. -/
def seqFilesum (buf cap start : Nat) (hw : Bool) : List FileRead → List Event × FileEnd
  | [] => ([], .reading)
  | .ioError :: _ => ([], .ioError)
  | .data bs :: rest =>
      let evs := loadBytes (buf + start) bs ++ seqUpdate Config.initialCrc buf (start + bs.length) hw
      if bs.length = cap - start then
        let r := seqFileLoop buf cap hw rest
        (evs ++ r.1, r.2)
      else (evs ++ [.read .crc], .checksum)

end Sys2Proof.Machine
end

