-- ==== Sys2Proof/Safety.lean ====
section
/-! DEFINITION. What the statements are said in: the invariant of the engine, what a safe step is, and the
conditions on a buffer. -/

namespace Sys2Proof.Machine

/-- The invariant every step keeps: the constraints of R5, the widths of R22 and R23, the invariant of R27, what
an accepted command guarantees while it is busy (R9, R143, R144, R174), and the canonical memory. -/
structure State.Inv (s : State) : Prop where
  /-- R5. -/
  params : s.params.wf = true
  /-- R22: `PTR` is an `AW`-bit value. -/
  ptr : s.ptr < s.params.space
  /-- R23: `LEN` is an `AW`-bit value. -/
  len : s.len < s.params.space
  /-- R27: `BUSY = 1` implies `ERR = 0` and `DONE = 0`. -/
  busy : s.busy = true → s.err = false ∧ s.done = false
  /-- R27: `ERR = 1` implies `DONE = 0`. -/
  err : s.err = true → s.done = false
  /-- R27: `ECODE` is zero exactly when `ERR = 0`. -/
  ecodeZero : s.err = false ↔ s.ecode = 0#3
  /-- R171: `ECODE` values 5, 6 and 7 are never produced. -/
  ecodeMax : s.ecode.toNat ≤ 4
  /-- R143: "`x[LEN] >= 1` holds at the start of every step". -/
  remaining : s.busy = true → 1 ≤ s.len
  /-- R9, R174: the rest of an accepted buffer does not wrap. -/
  inRange : s.busy = true → s.ptr + s.len ≤ s.params.space
  /-- R144: a command runs on the hardware path only where the wrapper is usable. -/
  hwPath : s.busy = true → s.path = .hw → s.params.hwBuild = true ∧ s.params.hwcap = true
  /-- The buffer memory is in canonical form. -/
  mem : s.mem.wf s.params

/-- The outcome is a next state. -/
abbrev Safe (o : Host.Outcome State Fault Refusal) : Prop := ∃ t, o = .next t

/-- Idle and not in the error state: an `UPDATE` written now is not discarded (R177). -/
abbrev State.ready (s : State) : Prop := s.busy = false ∧ s.err = false

/-- The path on which an `UPDATE` runs, by the host's `use_hardware` (R144, R114). -/
def State.pathOf (s : State) (hw : Bool) : Path := if hw && s.params.hwBuild then .hw else .sw

/-- The command of the host's `use_hardware`. -/
def updateInstr (hw : Bool) : Instr := if hw then .updateHw else .updateSw

/-- The host keeps the path discipline of R216: hardware only where it may be used, or where it is ignored. -/
abbrev State.mayUse (s : State) (hw : Bool) : Prop :=
  hw = true → s.params.hwBuild = true → s.params.hwcap = true

/-- The bytes `bs` stand at `a` and every one can be read. -/
abbrev State.holds (s : State) (a : Nat) (bs : List Byte) : Prop := s.readBytes a bs.length = some bs

/-- Length of the prologue of the software path, `p` of R142. -/
def prologueLen (a l : Nat) : Nat := min l ((4 - a % 4) % 4)

/-- Bulk steps of the software path, `g` of R142. -/
def bulkLen (a l : Nat) : Nat := (l - prologueLen a l) / 8

/-- Length of the epilogue of the software path, `e` of R142. -/
def epilogueLen (a l : Nat) : Nat := (l - prologueLen a l) % 8

/-- The micro-operations of the software path for a buffer (R142). -/
def softwareSteps (a l : Nat) : List Instr :=
  List.replicate (prologueLen a l) .tbyte ++ List.replicate (bulkLen a l) .slice8 ++
    List.replicate (epilogueLen a l) .tbyte

/-- The tail of the hardware path, for `L mod 4` bytes (R145). -/
def hardwareTail (r : Nat) : List Instr :=
  if r = 3 then [.crc32H, .crc32B] else if r = 2 then [.crc32H] else if r = 1 then [.crc32B] else []

/-- The micro-operations of the hardware path for a buffer of `l` bytes (R145). -/
def hardwareSteps (l : Nat) : List Instr := List.replicate (l / 4) .crc32W ++ hardwareTail (l % 4)

/-- The micro-operations of an `UPDATE` on a path. -/
def pathSteps (p : Path) (a l : Nat) : List Instr :=
  match p with
  | .sw => softwareSteps a l
  | .hw => hardwareSteps l

/-- The addresses that a list of accesses reads, in order. -/
def touched (as : List Access) : List Nat := as.flatMap (fun x => List.range' x.addr x.width)

/-- `UPDATE`s over consecutive pieces of a buffer (R152): each writes `LEN` with its piece's length, is accepted on
its own path, and runs to its end; `CRC` and `PTR` go on from the piece before. -/
def updatePieces : List (List Byte × Bool) → State → Host.Outcome State Fault Refusal
  | [], s => .next s
  | (bs, hw) :: pieces, s =>
      match exec (updateInstr hw) (s.setLen bs.length) with
      | .next t =>
          match engineRun bs.length t with
          | .next u => updatePieces pieces u
          | .fault r => .fault r
          | .refused r => .refused r
      | .fault r => .fault r
      | .refused r => .refused r

end Sys2Proof.Machine
end

