-- ==== Sys2Proof/Certificates/Slice0/Obligations.lean ====
section
/-! DEFINITION. The statements for the provers. Each docstring names the rule of spec/ it formalises, or says that
it is derived and from what. A statement about `step` takes the machine's next event from `inbox` (log entry 2). -/

open Sys2Proof Sys2Proof.Machine

/-! ### Encoding -/

/-- R83: the command map, on all 32 bits, and its last row, every other value is an illegal command. -/
def Obligations.CommandMapMatchesAllBits : Prop :=
  (∀ (v : Word) (i : Instr), decode (.cmd v) = .ok i ↔
    (v = 0x00000000#32 ∧ i = .nop) ∨ (v = 0x00000001#32 ∧ i = .updateSw) ∨
    (v = 0x00000003#32 ∧ i = .updateHw) ∨ (v = 0x00000004#32 ∧ i = .clrerr)) ∧
  (∀ v : Word, v ≠ 0x00000000#32 → v ≠ 0x00000001#32 → v ≠ 0x00000003#32 → v ≠ 0x00000004#32 →
    decode (.cmd v) = .error (.illegalCommand v))

/-- R85: the micro-operation map with its columns `UNIT`, `SIZE` and bytes consumed, and the reserved codes. -/
def Obligations.UopMapWithSizes : Prop :=
  (∀ (u : BitVec 3) (i : Instr), decode (.uop u) = .ok i ↔
    (u, uopUnit u, uopSize u, i, uopBytes u) ∈
      [(0b000#3, false, 0, Instr.tbyte, 1), (0b011#3, false, 3, Instr.slice8, 8),
       (0b100#3, true, 0, Instr.crc32B, 1), (0b101#3, true, 1, Instr.crc32H, 2),
       (0b110#3, true, 2, Instr.crc32W, 4)]) ∧
  (∀ u : BitVec 3, u ∈ [0b001#3, 0b010#3, 0b111#3] → decode (.uop u) = .error (.reservedUop u))

/-- Derived from R81, R82, R86: the code words whose fields are legal are exactly the ones that decode. -/
def Obligations.LegalFieldsAreTheDecodableWords : Prop :=
  ∀ cw : CodeWord, cw.wf = true ↔ ∃ i, decode cw = .ok i

/-- Derived from R83 and R85: decoding and encoding agree on every list of bytes, so no bit of a code word is
dropped. The byte order of a code word is the model's choice (log entry 5). -/
def Obligations.DecodeEncodeAgreeOnBytes : Prop :=
  ∀ (bs : List Byte) (i : Instr), decodeBytes bs = .ok i ↔ bs = encodeBytes i

/-- Derived from R83 and R85: the nine rows of the opcode table, each word written out. -/
def Obligations.TableRowsDecode : Prop :=
  decodeTableWord 32 0x00000000 = some .nop ∧ decodeTableWord 32 0x00000001 = some .updateSw ∧
  decodeTableWord 32 0x00000003 = some .updateHw ∧ decodeTableWord 32 0x00000004 = some .clrerr ∧
  decodeTableWord 8 0b000 = some .tbyte ∧ decodeTableWord 8 0b011 = some .slice8 ∧
  decodeTableWord 8 0b100 = some .crc32B ∧ decodeTableWord 8 0b101 = some .crc32H ∧
  decodeTableWord 8 0b110 = some .crc32W ∧ decodeTableWord 32 0x80000001 = none ∧ decodeTableWord 8 0b111 = none

/-! ### The Table Set and the datapath functions -/

/-- R103: `T[k][i]` is the fold of byte `i` and then `k` zero bytes, from zero; and of any eight tables with zero at
index 0 that differ from these in one entry, the bulk step of R131 differs from eight single-byte folds somewhere. -/
def Obligations.TableEntryIsFoldOfZeroPaddedByte : Prop :=
  (∀ (k : Nat) (i : Byte), k ≤ 7 → table k i = fold 0x00000000#32 (i :: List.replicate k 0x00#8)) ∧
  (∀ (T : Nat → Byte → Word) (k : Nat) (i : Byte), (∀ m ≤ 7, T m 0x00#8 = 0x00000000#32) → k ≤ 7 →
    T k i ≠ table k i →
    ∃ (c : Word) (d0 d1 d2 d3 d4 d5 d6 d7 : Byte),
      let x := c ^^^ le32 d0 d1 d2 d3
      T 7 (byteOf x 0) ^^^ T 6 (byteOf x 1) ^^^ T 5 (byteOf x 2) ^^^ T 4 (byteOf x 3) ^^^
        T 3 d4 ^^^ T 2 d5 ^^^ T 1 d6 ^^^ T 0 d7 ≠ fold c [d0, d1, d2, d3, d4, d5, d6, d7])

/-- Derived from R104 (a) to (d): the zero entries, linearity of the tables and of `Z`, and `TBYTE` through `Z`. -/
def Obligations.TablesAreLinear : Prop :=
  (∀ k, table k 0#8 = 0#32) ∧
  (∀ (k : Nat) (a b : Byte), table k (a ^^^ b) = table k a ^^^ table k b) ∧
  (∀ c d : Word, zeroFold (c ^^^ d) = zeroFold c ^^^ zeroFold d) ∧ zeroFold 0#32 = 0#32 ∧
  (∀ (c : Word) (b : Byte), tbyteFn c b = zeroFold (c ^^^ zext b))

/-- Derived from R104 (e): `Z^n` of a value, for `n` from 1 to 4, by one lookup for each of its low `n` bytes. -/
def Obligations.ZeroFoldIteratedByLookups : Prop :=
  ∀ (v : Word) (n : Nat), 1 ≤ n → n ≤ 4 →
    zeroFold^[n] v =
      ((List.range n).map (fun j => table (n - 1 - j) (byteOf v j))).foldl (· ^^^ ·) (v >>> (8 * n))

/-- Derived from R104 (f) and (g) and the integrity table of R106: the top bytes of table 0 are pairwise
distinct, every table's entries cancel, and the listed figures hold. -/
def Obligations.TableIntegrity : Prop :=
  (∀ i j : Byte, byteOf (table 0 i) 3 = byteOf (table 0 j) 3 → i = j) ∧
  (∀ k ∈ List.range 8, ((List.range 256).map (fun i => table k (BitVec.ofNat 8 i))).foldl (· ^^^ ·) 0#32 = 0#32) ∧
  ((List.range 8).map (fun k => table k 0x01#8) =
    [0xF26B8303#32, 0x13A29877#32, 0xA541927E#32, 0xDD45AAB8#32, 0x38116FAC#32, 0xEF306B19#32, 0x68032CC8#32,
     0x493C7D27#32]) ∧
  ((List.range 8).map (fun k => table k 0x80#8) =
    [0x82F63B78#32, 0xFBC3FAF9#32, 0x8B277743#32, 0x52A0C93F#32, 0x6EA2D55C#32, 0x1C08B7D6#32, 0xF56E0EF4#32,
     0x34019664#32]) ∧
  ((List.range 8).map (fun k => table k 0xFF#8) =
    [0xAD7D5351#32, 0xA3E32483#32, 0x91052BA8#32, 0x2803E842#32, 0xA0686EA3#32, 0xB1BB2E3C#32, 0x7D113D4F#32,
     0x1F1530A5#32])

/-- R133: a bulk step equals eight single-byte folds. -/
def Obligations.BulkStepIsEightByteFolds : Prop :=
  ∀ (c : Word) (d0 d1 d2 d3 d4 d5 d6 d7 : Byte),
    slice8Fn c (le32 d0 d1 d2 d3) (le32 d4 d5 d6 d7) = fold c [d0, d1, d2, d3, d4, d5, d6, d7]

/-- R123: the wrapper's `n`-byte fold is `n` single-byte folds from the least significant byte upward, and with
the little-endian read it folds the buffer bytes in ascending address order. -/
def Obligations.WrapperFoldsBytesInAddressOrder : Prop :=
  (∀ (c : Word) (b : Byte), crc32BFn c b = fold c [b]) ∧
  (∀ (c : Word) (h : Half), crc32HFn c h = fold c [h.extractLsb' 0 8, h.extractLsb' 8 8]) ∧
  (∀ c w : Word, crc32WFn c w =
    fold c [w.extractLsb' 0 8, w.extractLsb' 8 8, w.extractLsb' 16 8, w.extractLsb' 24 8]) ∧
  (∀ (s : State) (a : Nat) (b : Byte), s.memRead1 a = some b →
    s.readBytes a 1 = some [b] ∧ ∀ c, crc32BFn c b = fold c [b]) ∧
  (∀ (s : State) (a : Nat) (h : Half), s.memRead2 a = some h →
    ∃ bs, s.readBytes a 2 = some bs ∧ ∀ c, crc32HFn c h = fold c bs) ∧
  (∀ (s : State) (a : Nat) (w : Word), s.memRead4 a = some w →
    ∃ bs, s.readBytes a 4 = some bs ∧ ∀ c, crc32WFn c w = fold c bs)

/-- Derived from the closed forms and the relation in R121 and R122. -/
def Obligations.WrapperClosedForms : Prop :=
  (∀ (c : Word) (h : Half), crc32HFn c h =
    table 1 (byteOf (c ^^^ h.setWidth 32) 0) ^^^ table 0 (byteOf (c ^^^ h.setWidth 32) 1) ^^^ (c >>> 16)) ∧
  (∀ c w : Word, crc32WFn c w =
    table 3 (byteOf (c ^^^ w) 0) ^^^ table 2 (byteOf (c ^^^ w) 1) ^^^ table 1 (byteOf (c ^^^ w) 2) ^^^
      table 0 (byteOf (c ^^^ w) 3)) ∧
  (∀ c : Word, crc32WFn c c = 0#32) ∧
  (∀ c w1 w2 : Word, slice8Fn c w1 w2 = crc32WFn (crc32WFn c w1) w2)

/-- Derived from the corner cases of R130: for each byte the fold is a bijection of the running values; it
depends on the low byte and the operand through their exclusive or; and the operand equal to the low byte
leaves a plain shift. -/
def Obligations.ByteFoldIsBijective : Prop :=
  (∀ b : Byte, Function.Bijective (fun c => tbyteFn c b)) ∧
  (∀ (c : Word) (b : Byte), tbyteFn c b = tbyteFn (c ^^^ zext b) 0#8) ∧
  (∀ c : Word, tbyteFn c (byteOf c 0) = c >>> 8)

/-- Derived from R101, R120 to R122, R130, R131: every datapath function is the shift register of the reflected
Castagnoli polynomial, run for eight shifts a byte. -/
def Obligations.FoldsAreBitSerialDivision : Prop :=
  (∀ (c : Word) (b : Byte), tbyteFn c b = bitSteps 8 (c ^^^ zext b)) ∧
  (∀ (c : Word) (b : Byte), crc32BFn c b = bitSteps 8 (c ^^^ zext b)) ∧
  (∀ (c : Word) (h : Half), crc32HFn c h = bitSteps 16 (c ^^^ h.setWidth 32)) ∧
  (∀ c w : Word, crc32WFn c w = bitSteps 32 (c ^^^ w)) ∧
  (∀ c w1 w2 : Word, slice8Fn c w1 w2 = bitSteps 32 (bitSteps 32 (c ^^^ w1) ^^^ w2))

/-- Derived from the known-answer vectors K1 to K8 and S2 of 95_test_vectors.md: raw values from the seed
`INITIAL_CRC`, and the published values that `FINAL` makes of them (R165). -/
def Obligations.KnownAnswers : Prop :=
  finalValue (fold Config.initialCrc []) = 0x00000000#32 ∧
  fold Config.initialCrc [0x00#8] = 0xAD82ACAE#32 ∧
  fold Config.initialCrc [0x31#8, 0x32#8, 0x33#8, 0x34#8, 0x35#8, 0x36#8, 0x37#8, 0x38#8, 0x39#8] = 0x1CF96D7C#32 ∧
  finalValue 0x1CF96D7C#32 = 0xE3069283#32 ∧
  finalValue (fold Config.initialCrc (List.replicate 32 0x00#8)) = 0x8A9136AA#32 ∧
  finalValue (fold Config.initialCrc (List.replicate 32 0xFF#8)) = 0x62A8AB43#32 ∧
  finalValue (fold Config.initialCrc ((List.range 32).map (BitVec.ofNat 8))) = 0x46DD794E#32 ∧
  finalValue (fold Config.initialCrc ((List.range 32).reverse.map (BitVec.ofNat 8))) = 0x113FDB5C#32 ∧
  fold Config.initialCrc [0x61#8] = 0x3E2FBCCF#32 ∧
  fold Config.initialCrc [0x61#8, 0x62#8, 0x63#8] = 0xC9B4C048#32

/-- Derived from R135, its transpositions: of the pairings of the eight tables with the bytes of the group, each
that exchanges two tables gives another value on "12345678" than the pairing of R132, which gives the fold. -/
def Obligations.NoTwoTablesCanBeExchanged : Prop :=
  ∀ i ∈ List.range 8, ∀ j ∈ List.range 8,
    let lane := fun k : Nat => if k = i then j else if k = j then i else k
    let x := 0xFFFFFFFF#32 ^^^ 0x34333231#32
    let w := 0x38373635#32
    (table (lane 7) (byteOf x 0) ^^^ table (lane 6) (byteOf x 1) ^^^ table (lane 5) (byteOf x 2) ^^^
      table (lane 4) (byteOf x 3) ^^^ table (lane 3) (byteOf w 0) ^^^ table (lane 2) (byteOf w 1) ^^^
      table (lane 1) (byteOf w 2) ^^^ table (lane 0) (byteOf w 3) = 0x9F787F65#32) ↔ i = j

/-! ### The buffer space -/

/-- Derived from R52 and R56: `MemRead(a, n)` is the value whose bits `8i+7:8i` are the byte at `a + i`, at every
address. That a read of 2 or 4 bytes is served exactly when each of its bytes is, and gets the error response exactly
when one of them does, is the model's choice (log entry 11): R62 lets the port answer any read with it. -/
def Obligations.MemReadIsLittleEndian : Prop :=
  (∀ (s : State) (a : Nat) (b : Byte), s.memRead1 a = some b ↔ s.readByte a = some b) ∧
  (∀ (s : State) (a : Nat) (h : Half), s.memRead2 a = some h ↔
    ∀ i < 2, s.memRead1 (a + i) = some (h.extractLsb' (8 * i) 8)) ∧
  (∀ (s : State) (a : Nat) (w : Word), s.memRead4 a = some w ↔
    ∀ i < 4, s.memRead1 (a + i) = some (w.extractLsb' (8 * i) 8))

/-! ### The micro-operations -/

/-- Derived from the pseudocode of R130: `TBYTE` completes where the byte at `PTR` is readable, with the value,
`PTR`, `LEN` of the rule and nothing else changed (the access of R57 is recorded). -/
def Obligations.TbyteFoldsOneByte : Prop :=
  ∀ (s : State) (b : Byte), s.memRead1 s.ptr = some b → 1 ≤ s.len → s.len < s.params.space →
    exec .tbyte s = .next { s with
      crc := table 0 (byteOf (s.crc ^^^ zext b) 0) ^^^ (s.crc >>> 8),
      ptr := (s.ptr + 1) % s.params.space, len := s.len - 1,
      accesses := s.accesses ++ [⟨s.ptr, 1⟩] }

/-- Derived from the pseudocode of R131: `SLICE8` completes where both words are readable, with the value of the
rule's eight lookups, and nothing else changed (both accesses of R57 are recorded, in order). -/
def Obligations.Slice8FoldsEightBytes : Prop :=
  ∀ (s : State) (w1 w2 : Word), s.memRead4 s.ptr = some w1 → s.memRead4 (s.ptr + 4) = some w2 →
    8 ≤ s.len → s.len < s.params.space →
    exec .slice8 s = .next { s with
      crc := table 7 (byteOf (s.crc ^^^ w1) 0) ^^^ table 6 (byteOf (s.crc ^^^ w1) 1) ^^^
        table 5 (byteOf (s.crc ^^^ w1) 2) ^^^ table 4 (byteOf (s.crc ^^^ w1) 3) ^^^
        table 3 (byteOf w2 0) ^^^ table 2 (byteOf w2 1) ^^^ table 1 (byteOf w2 2) ^^^ table 0 (byteOf w2 3),
      ptr := (s.ptr + 8) % s.params.space, len := s.len - 8,
      accesses := s.accesses ++ [⟨s.ptr, 4⟩, ⟨s.ptr + 4, 4⟩] }

/-- Derived from the pseudocode of R120, R121, R122: on an instance with a usable wrapper each of its three
micro-operations completes where its operand is readable, at any alignment, with the value of the rule and
nothing else changed. -/
def Obligations.WrapperFoldsItsOperand : Prop :=
  ∀ s : State, s.params.hwBuild = true → s.params.hwcap = true → s.len < s.params.space →
    (∀ b : Byte, s.memRead1 s.ptr = some b → 1 ≤ s.len →
      exec .crc32B s = .next { s with
        crc := fold s.crc [b], ptr := (s.ptr + 1) % s.params.space, len := s.len - 1,
        accesses := s.accesses ++ [⟨s.ptr, 1⟩] }) ∧
    (∀ h : Half, s.memRead2 s.ptr = some h → 2 ≤ s.len →
      exec .crc32H s = .next { s with
        crc := fold s.crc [h.extractLsb' 0 8, h.extractLsb' 8 8],
        ptr := (s.ptr + 2) % s.params.space, len := s.len - 2,
        accesses := s.accesses ++ [⟨s.ptr, 2⟩] }) ∧
    (∀ w : Word, s.memRead4 s.ptr = some w → 4 ≤ s.len →
      exec .crc32W s = .next { s with
        crc := fold s.crc [byteOf w 0, byteOf w 1, byteOf w 2, byteOf w 3],
        ptr := (s.ptr + 4) % s.params.space, len := s.len - 4,
        accesses := s.accesses ++ [⟨s.ptr, 4⟩] })

/-- Derived from R175, R176 for the micro-operations with one read: where a byte of the operand answers with the
error response, the step raises `BusError`: the flags and the code as the rule says, `CRC`, `PTR`, `LEN` some
values of their widths, nothing else changed (the read that was issued is recorded, and a draw counted). -/
def Obligations.UnservedReadRaisesBusError : Prop :=
  ∀ (s : State) (i : Instr) (n : Nat),
    (i, n) ∈ [(Instr.tbyte, 1), (Instr.crc32B, 1), (Instr.crc32H, 2), (Instr.crc32W, 4)] →
    (i ≠ .tbyte → s.params.hwBuild = true ∧ s.params.hwcap = true) →
    s.readBytes s.ptr n = none →
    ∃ (c : Word) (p l : Nat), p < s.params.space ∧ l < s.params.space ∧
      exec i s = .next { s with
        crc := c, ptr := p, len := l, busy := false, done := false, err := true, ecode := 4#3,
        accesses := s.accesses ++ [⟨s.ptr, n⟩], draws := s.draws + 1 }

/-- Derived from R131, R175, R176: `SLICE8` raises `BusError` from either read, and when the first read fails the
second is not issued. -/
def Obligations.Slice8BusErrorStopsAtTheFailingRead : Prop :=
  ∀ s : State,
    (s.memRead4 s.ptr = none → ∃ (c : Word) (p l : Nat), p < s.params.space ∧ l < s.params.space ∧
      exec .slice8 s = .next { s with
        crc := c, ptr := p, len := l, busy := false, done := false, err := true, ecode := 4#3,
        accesses := s.accesses ++ [⟨s.ptr, 4⟩], draws := s.draws + 1 }) ∧
    (∀ w1, s.memRead4 s.ptr = some w1 → s.memRead4 (s.ptr + 4) = none →
      ∃ (c : Word) (p l : Nat), p < s.params.space ∧ l < s.params.space ∧
      exec .slice8 s = .next { s with
        crc := c, ptr := p, len := l, busy := false, done := false, err := true, ecode := 4#3,
        accesses := s.accesses ++ [⟨s.ptr, 4⟩, ⟨s.ptr + 4, 4⟩], draws := s.draws + 1 })

/-- Derived from R114 and R173: on an instance without a usable wrapper its micro-operations do not run. The spec
says that the wrapper does not exist or must not run; that a model refuses there, under the name
`wrapperUnavailable`, is the model's choice (log entry 16). The sequencer never asks for them there
(`InvariantStatesStepSafely`). -/
def Obligations.AbsentWrapperRunsNothing : Prop :=
  ∀ (s : State) (i : Instr), i ∈ [Instr.crc32B, Instr.crc32H, Instr.crc32W] →
    (s.params.hwBuild = false ∨ s.params.hwcap = false) → exec i s = .refused .wrapperUnavailable

/-! ### The commands -/

/-- R140: `NOP` changes no state, as an instruction and as a write of the all-zero word to `CMD`. -/
def Obligations.NopChangesNothing : Prop :=
  (∀ s : State, exec .nop s = .next s) ∧
  (∀ (s : State) (rest : List Event), s.ready → s.inbox = .write .cmd 0x00000000 :: rest →
    step s = .next { s with inbox := rest })

/-- Derived from the pseudocode of R141: `UPDATE.SW` of an idle engine, in its three cases: out of range, no byte
to fold, accepted. It never looks at the capability. -/
def Obligations.UpdateSwAcceptance : Prop :=
  ∀ s : State, s.busy = false →
    (s.params.space < s.ptr + s.len →
      exec .updateSw s = .next { s with err := true, ecode := 3#3, done := false }) ∧
    (s.ptr + s.len ≤ s.params.space → s.len = 0 →
      exec .updateSw s = .next { s with path := .sw, done := true }) ∧
    (s.ptr + s.len ≤ s.params.space → s.len ≠ 0 →
      exec .updateSw s = .next { s with path := .sw, done := false, busy := true })

/-- R144, R173: `UPDATE.HW` of an idle engine: `NoHw` first, whatever `PTR` and `LEN` hold; in a build without
the wrapper it is `UPDATE.SW`; else `Range`, completion at once, or acceptance on the hardware path. -/
def Obligations.UpdateHwAcceptance : Prop :=
  ∀ s : State, s.busy = false →
    (s.params.hwBuild = true → s.params.hwcap = false →
      exec .updateHw s = .next { s with err := true, ecode := 2#3, done := false }) ∧
    (s.params.hwBuild = false → exec .updateHw s = exec .updateSw s) ∧
    (s.params.hwBuild = true → s.params.hwcap = true →
      (s.params.space < s.ptr + s.len →
        exec .updateHw s = .next { s with err := true, ecode := 3#3, done := false }) ∧
      (s.ptr + s.len ≤ s.params.space → s.len = 0 →
        exec .updateHw s = .next { s with path := .hw, done := true }) ∧
      (s.ptr + s.len ≤ s.params.space → s.len ≠ 0 →
        exec .updateHw s = .next { s with path := .hw, done := false, busy := true }))

/-- R174: `Range` is raised exactly when the integer sum passes `2^AW`, so equality is accepted and `LEN = 0`
never raises it; no register other than `STATUS` changes. -/
def Obligations.RangeIsTheIntegerSum : Prop :=
  ∀ (s : State) (hw : Bool), s.busy = false → s.err = false → s.mayUse hw →
    (s.params.space < s.ptr + s.len →
      exec (updateInstr hw) s = .next { s with err := true, ecode := 3#3, done := false }) ∧
    (s.ptr + s.len ≤ s.params.space →
      ∃ t, exec (updateInstr hw) s = .next t ∧ t.err = false ∧ t.ecode = s.ecode ∧
        t.crc = s.crc ∧ t.ptr = s.ptr ∧ t.len = s.len) ∧
    (s.ptr < s.params.space → s.len = 0 → ¬ s.params.space < s.ptr + s.len)

/-- R148: `CLRERR` clears `ERR` and `ECODE` and changes nothing else; with `ERR = 0` (so `ECODE = 0`, R27) it
changes nothing; it is the only command executed in the error state. -/
def Obligations.ClrerrLeavesTheErrorState : Prop :=
  (∀ s : State, exec .clrerr s = .next { s with err := false, ecode := 0#3 }) ∧
  (∀ s : State, s.err = false → s.ecode = 0#3 → exec .clrerr s = .next s) ∧
  (∀ (s : State) (v : Nat) (rest : List Event), s.busy = false → s.err = true →
    s.inbox = .write .cmd v :: rest →
    (BitVec.ofNat 32 v = 0x00000004#32 →
      step s = .next { s with inbox := rest, err := false, ecode := 0#3 }) ∧
    (BitVec.ofNat 32 v ≠ 0x00000004#32 → step s = .next { s with inbox := rest }))

/-- R172: a word that is no command, written to `CMD` and not discarded, raises `IllegalCmd`, and no register
other than `STATUS` changes. -/
def Obligations.IllegalWordRaisesIllegalCmd : Prop :=
  ∀ (s : State) (v : Word) (rest : List Event), s.ready → s.inbox = .write .cmd v.toNat :: rest →
    v ≠ 0x00000000#32 → v ≠ 0x00000001#32 → v ≠ 0x00000003#32 → v ≠ 0x00000004#32 →
    step s = .next { s with inbox := rest, err := true, ecode := 1#3, busy := false, done := false }

/-- Derived from R177: a write of `CMD` is judged in the order of the rule, and the first test that applies decides:
discarded while busy, discarded in the error state, `IllegalCmd`, `NoHw`, `Range`, else executed with no error. -/
def Obligations.CommandWritePriority : Prop :=
  ∀ (s : State) (w : Word) (rest : List Event), s.inbox = .write .cmd w.toNat :: rest →
    if s.busy = true then step s = .next { s with inbox := rest }
    else if s.err = true ∧ w ≠ 0x00000004#32 then step s = .next { s with inbox := rest }
    else if w ≠ 0x00000000#32 ∧ w ≠ 0x00000001#32 ∧ w ≠ 0x00000003#32 ∧ w ≠ 0x00000004#32 then
      step s = .next { s with inbox := rest, err := true, ecode := 1#3, done := false }
    else if w = 0x00000003#32 ∧ s.params.hwBuild = true ∧ s.params.hwcap = false then
      step s = .next { s with inbox := rest, err := true, ecode := 2#3, done := false }
    else if (w = 0x00000001#32 ∨ w = 0x00000003#32) ∧ s.params.space < s.ptr + s.len then
      step s = .next { s with inbox := rest, err := true, ecode := 3#3, done := false }
    else ∃ i t, decode (.cmd w) = .ok i ∧ exec i { s with inbox := rest } = .next t ∧ step s = .next t ∧ t.err = false

/-- R154: an `UPDATE` accepted with `LEN = 0`, on either path, takes no step and reads no memory, whatever stands
at `PTR`: only `PATH` and `DONE` are written, and the engine's turns after it do nothing. -/
def Obligations.ZeroLengthUpdateCompletesAtOnce : Prop :=
  ∀ (s : State) (hw : Bool), s.Inv → s.ready → s.mayUse hw → s.len = 0 →
    exec (updateInstr hw) s = .next { s with path := s.pathOf hw, done := true } ∧
    ∀ n, engineRun n { s with path := s.pathOf hw, done := true } =
      .next { s with path := s.pathOf hw, done := true }

/-! ### Register access, reset -/

/-- Derived from R112 (its idle cases) and R27 (its fields): what `RD` yields when the engine is idle, the word of `STATUS`
as the sum of its fields; and nothing but the host's record changes. -/
def Obligations.IdleRegisterRead : Prop :=
  ∀ (s : State) (r : Reg) (rest : List Event), s.busy = false → s.inbox = .read r :: rest →
    step s = .next { s with
      inbox := rest,
      outbox := s.outbox ++ [⟨r, match r with
        | .crc => s.crc.toNat
        | .ptr => s.ptr
        | .len => s.len
        | .cmd => 0
        | .status => s.busy.toNat + 2 * s.done.toNat + 4 * s.err.toNat + 8 * s.ecode.toNat +
            64 * s.params.hwcap.toNat + 128 * s.params.hwBuild.toNat
        | .reserved5 => 0
        | .reserved6 => 0
        | .reserved7 => 0⟩] }

/-- Derived from R211 and R112: while busy, a read of `CRC`, `PTR` or `LEN` yields some value of the register's
width; `STATUS`, `CMD` and the reserved numbers read normally; no read changes the engine. That `draws` counts one
free value for `CRC`, `PTR` and `LEN` and none for the others is the model's choice (log entry 4). -/
def Obligations.BusyRegisterRead : Prop :=
  ∀ (s : State) (r : Reg) (rest : List Event), s.busy = true → s.inbox = .read r :: rest →
    ∃ v d, step s = .next { s with inbox := rest, outbox := s.outbox ++ [⟨r, v⟩], draws := d } ∧
      (r = .crc → v < 2 ^ 32 ∧ d = s.draws + 1) ∧
      (r = .ptr → v < s.params.space ∧ d = s.draws + 1) ∧
      (r = .len → v < s.params.space ∧ d = s.draws + 1) ∧
      (r = .cmd → v = 0 ∧ d = s.draws) ∧
      (r = .status → v = 1 + 2 * s.done.toNat + 4 * s.err.toNat + 8 * s.ecode.toNat +
        64 * s.params.hwcap.toNat + 128 * s.params.hwBuild.toNat ∧ d = s.draws) ∧
      (r = .reserved5 → v = 0 ∧ d = s.draws) ∧
      (r = .reserved6 → v = 0 ∧ d = s.draws) ∧
      (r = .reserved7 → v = 0 ∧ d = s.draws)

/-- Derived from R111: `DETECT` yields the capability flag in every engine state, and changes nothing but the host's record. -/
def Obligations.DetectYieldsTheCapability : Prop :=
  ∀ (s : State) (rest : List Event), s.inbox = seqDetect ++ rest →
    ∃ v, step s = .next { s with inbox := rest, outbox := s.outbox ++ [⟨.status, v⟩] } ∧
      detectResult v = s.params.hwcap ∧ (s.params.wf = true → s.params.hwBuild = false → detectResult v = false)

/-- Derived from R113 and R179: an idle engine, in the error state or not, takes a write of `CRC`, `PTR` or `LEN`,
cut to the register's width, and discards a write of `STATUS` or of a reserved register; no flag changes. -/
def Obligations.IdleRegisterWrite : Prop :=
  ∀ (s : State) (r : Reg) (v : Nat) (rest : List Event), s.busy = false → r ≠ .cmd →
    s.inbox = .write r v :: rest →
    step s = .next (match r with
      | .crc => { s with inbox := rest, crc := BitVec.ofNat 32 v }
      | .ptr => { s with inbox := rest, ptr := v % 2 ^ s.params.aw }
      | .len => { s with inbox := rest, len := v % 2 ^ s.params.aw }
      | .cmd => s
      | .status => { s with inbox := rest }
      | .reserved5 => { s with inbox := rest }
      | .reserved6 => { s with inbox := rest }
      | .reserved7 => { s with inbox := rest })

/-- R210: while busy, every host write is discarded; it changes nothing, raises nothing and is not queued. -/
def Obligations.BusyWritesAreDiscarded : Prop :=
  ∀ (s : State) (r : Reg) (v : Nat) (rest : List Event), s.busy = true → s.inbox = .write r v :: rest →
    step s = .next { s with inbox := rest }

/-- Derived from R200: the reset event at any moment: flags and code to 0, `CRC`, `PTR`, `LEN`, `PATH` some values of their
widths, the constants untouched, and afterwards the engine executes nothing on its own. -/
def Obligations.ResetEventClearsTheFlags : Prop :=
  ∀ (s : State) (rest : List Event), s.inbox = .reset :: rest →
    ∃ (c : Word) (p l : Nat) (q : Path), p < s.params.space ∧ l < s.params.space ∧
      step s = .next { s with
        inbox := rest, crc := c, ptr := p, len := l, path := q, busy := false, done := false, err := false,
        ecode := 0#3, draws := s.draws + 1 } ∧
      ∀ n t, step s = .next t → engineRun n t = .next t

/-- Derived from R32 and R200 (the values the spec gives): right after reset every flag and `ECODE` are 0,
`STATUS` shows the parameters, and the machine stays as it is until an event comes. The statement rests on no
value that log entry 6 chose. -/
def Obligations.AfterResetTheEngineIsIdle : Prop :=
  ∀ p : Params,
    (State.powerOn p).busy = false ∧ (State.powerOn p).done = false ∧ (State.powerOn p).err = false ∧
    (State.powerOn p).ecode = 0#3 ∧ (State.powerOn p).params = p ∧
    (State.powerOn p).statusWord.toNat = 64 * p.hwcap.toNat + 128 * p.hwBuild.toNat ∧
    step (State.powerOn p) = .next (State.powerOn p) ∧ State.reset = State.powerOn Config.instance0

/-! ### The step -/

/-- Derived from R83 and R113: a write of a command's word to `CMD` that is not discarded runs the decoded
command. -/
def Obligations.StepRunsTheCommand : Prop :=
  ∀ (s : State) (v : Nat) (rest : List Event) (i : Instr), s.busy = false →
    (s.err = true → BitVec.ofNat 32 v = 0x00000004#32) → s.inbox = .write .cmd v :: rest →
    decode (.cmd (BitVec.ofNat 32 v)) = .ok i →
    step s = exec i { s with inbox := rest }

/-- Derived from R80, R143, R146, R147: on its turn a busy engine runs the micro-operation that its select code
decodes to, and the command completes in the same step when `LEN` has reached 0 and nothing was raised. -/
def Obligations.StepRunsTheMicroOperation : Prop :=
  ∀ (s t : State) (i : Instr), s.busy = true →
    ((s.inbox = [] ∧ t = s) ∨ ∃ rest, s.inbox = .engine :: rest ∧ t = { s with inbox := rest }) →
    decode (.uop s.nextUop) = .ok i →
    step s = match exec i t with
      | .next u => .next (if u.busy = true ∧ u.len = 0 then { u with busy := false, done := true } else u)
      | .fault r => .fault r
      | .refused r => .refused r

/-- Derived from R143 and R146: the select code a busy engine drives, by `PATH`, `PTR[1:0]` and `LEN` alone. -/
def Obligations.SequencerChoosesByAddressAndCount : Prop :=
  ∀ s : State, decode (.uop s.nextUop) = .ok (match s.path with
    | .sw => if s.ptr % 4 ≠ 0 ∨ s.len < 8 then .tbyte else .slice8
    | .hw => if 4 ≤ s.len then .crc32W else if 2 ≤ s.len then .crc32H else .crc32B)

/-! ### Invariants -/

/-- Derived from R5, R9, R22, R23, R27, R143, R171, R174: every step keeps the invariant, from every state that
meets it and for every schedule of events. -/
def Obligations.EveryStepKeepsTheInvariant : Prop :=
  ∀ s t : State, s.Inv → step s = .next t → t.Inv

/-- Derived from R5, R32, R200: the state after reset of every legal instance meets the invariant (the zeros of
log entry 6 only have to lie inside the registers' widths). -/
def Obligations.ResetMeetsTheInvariant : Prop :=
  (∀ p : Params, p.wf = true → (State.powerOn p).Inv) ∧ State.reset.Inv

/-- Derived from R86, R144, R170, R177: a state that meets the invariant steps to a next state on every event that
names existing bytes. The second clause is the model's choice and no rule of the spec: a poke outside the buffer
space is the model's own fault `noSuchAddress` (log entry 12). -/
def Obligations.InvariantStatesStepSafely : Prop :=
  ∀ s : State, s.Inv →
    ((∀ e rest, s.inbox = e :: rest → e.wf s.params = true) → Safe (step s)) ∧
    (∀ a b rest, s.inbox = .poke a b :: rest → s.params.space ≤ a → step s = .fault .noSuchAddress)

/-- Derived from R57, R65, R110: no step of the engine or of the host's registers writes the buffer space, only a
poke does, at its one address; and no step changes a parameter. -/
def Obligations.OnlyPokesWriteMemory : Prop :=
  ∀ s t : State, step s = .next t →
    t.params = s.params ∧
    ((∀ a b rest, s.inbox ≠ .poke a b :: rest) → t.mem = s.mem) ∧
    (∀ a b rest, s.inbox = .poke a b :: rest →
      ∀ x, t.readByte x = if x = a then b else s.readByte x)

/-- Derived from R21: `CRC` changes only by a host write of `CRC` to an idle engine, by a turn of a busy engine
(a micro-operation or its bus error), or by reset. -/
def Obligations.CrcChangesOnlyByTheseEvents : Prop :=
  ∀ s t : State, step s = .next t → t.crc ≠ s.crc →
    (s.busy = false ∧ ∃ v rest, s.inbox = .write .crc v :: rest) ∨
    (s.busy = true ∧ (s.inbox = [] ∨ ∃ rest, s.inbox = .engine :: rest)) ∨
    (∃ rest, s.inbox = .reset :: rest)

/-- Derived from R25, R179: the error state is left only by `CLRERR` or reset, and while it lasts no step changes
`ECODE`, sets `BUSY` or reads memory. -/
def Obligations.ErrorStateEndsOnlyByClrerrOrReset : Prop :=
  ∀ s t : State, s.Inv → s.err = true → step s = .next t →
    (t.err = false →
      (∃ v rest, s.inbox = .write .cmd v :: rest ∧ BitVec.ofNat 32 v = 0x00000004#32) ∨
      (∃ rest, s.inbox = .reset :: rest)) ∧
    (t.err = true → t.ecode = s.ecode) ∧ t.busy = false ∧ t.accesses = s.accesses

/-- Derived from R25, R147: once set, `DONE` is cleared only by the acceptance of an `UPDATE`, by an error, or by
reset; register writes, `NOP` and `CLRERR` do not clear it. -/
def Obligations.DoneStaysUntilNextUpdateErrorOrReset : Prop :=
  ∀ s t : State, s.Inv → s.done = true → step s = .next t → t.done = false →
    (∃ v rest, s.inbox = .write .cmd v :: rest ∧ (t.busy = true ∨ t.err = true)) ∨
    (∃ rest, s.inbox = .reset :: rest)

/-! ### What an `UPDATE` does -/

/-- Derived from R142: the software path takes `p` steps of `TBYTE`, `g` of `SLICE8`, `e` of `TBYTE`, from every accepted
address and count. -/
def Obligations.SoftwarePathStepSequence : Prop :=
  ∀ (s : State) (bs : List Byte), s.Inv → s.busy = true → s.path = .sw → s.holds s.ptr bs → bs.length = s.len →
    uopTrace s.len s = softwareSteps s.ptr s.len ∧
    prologueLen s.ptr s.len + 8 * bulkLen s.ptr s.len + epilogueLen s.ptr s.len = s.len ∧
    prologueLen s.ptr s.len ≤ 3 ∧ epilogueLen s.ptr s.len ≤ 7

/-- Derived from R145: the hardware path takes `floor(L/4)` steps of `CRC32.W`, then the tail: the 2-byte fold before the
1-byte fold. -/
def Obligations.HardwarePathStepSequence : Prop :=
  ∀ (s : State) (bs : List Byte), s.Inv → s.busy = true → s.path = .hw → s.holds s.ptr bs → bs.length = s.len →
    uopTrace s.len s = hardwareSteps s.len

/-- Derived from R55, R57, R58: an `UPDATE` that completes reads every byte of its buffer exactly once, in
ascending address order, and no other; every access has width 1, 2 or 4, and on the software path width 1, or
width 4 at a 4-byte-aligned address. -/
def Obligations.EveryBufferByteIsReadOnceInOrder : Prop :=
  ∀ (s : State) (bs : List Byte), s.Inv → s.busy = true → s.holds s.ptr bs → bs.length = s.len →
    ∃ t as, engineRun s.len s = .next t ∧ t.busy = false ∧ t.done = true ∧ t.accesses = s.accesses ++ as ∧
      touched as = List.range' s.ptr s.len ∧
      (∀ x ∈ as, x.width = 1 ∨ x.width = 2 ∨ x.width = 4) ∧
      (s.path = .sw → ∀ x ∈ as, x.width = 1 ∨ (x.width = 4 ∧ x.addr % 4 = 0))

/-- R150, the fold theorem: an accepted `UPDATE` over readable bytes ends with `CRC` the fold of its starting
value over them, `PTR` past the buffer, `LEN` 0, `BUSY` 0, `DONE` 1, `ERR` 0. -/
def Obligations.UpdateComputesTheFold : Prop :=
  ∀ (s : State) (hw : Bool) (bs : List Byte), s.Inv → s.ready → s.mayUse hw →
    s.ptr + s.len ≤ s.params.space → s.holds s.ptr bs → bs.length = s.len →
    ∃ t u, exec (updateInstr hw) s = .next t ∧ engineRun s.len t = .next u ∧
      u.crc = fold s.crc bs ∧ u.ptr = (s.ptr + s.len) % 2 ^ s.params.aw ∧ u.len = 0 ∧
      u.busy = false ∧ u.done = true ∧ u.err = false

/-- Derived from R150: each turn of a busy engine that raises nothing keeps the fold of the bytes still to come,
so the running value and the rest of the buffer determine the result at every moment. -/
def Obligations.EachTurnKeepsTheFoldOfTheRest : Prop :=
  ∀ (s t : State) (bs : List Byte), s.Inv → s.busy = true → s.holds s.ptr bs → bs.length = s.len →
    engineStep s = .next t →
    t.err = false ∧ t.len < s.len ∧
      ∃ done rest, bs = done ++ rest ∧ t.holds t.ptr rest ∧ rest.length = t.len ∧
        fold t.crc rest = fold s.crc bs

/-- R151: the result does not depend on the address, nor on the path: the same bytes, the same starting value,
any two instances. -/
def Obligations.ResultIsAlignmentIndependent : Prop :=
  ∀ (s s' : State) (hw hw' : Bool) (bs : List Byte),
    (s.Inv ∧ s.ready ∧ s.mayUse hw ∧ s.ptr + s.len ≤ s.params.space ∧ s.holds s.ptr bs ∧ bs.length = s.len) →
    (s'.Inv ∧ s'.ready ∧ s'.mayUse hw' ∧ s'.ptr + s'.len ≤ s'.params.space ∧ s'.holds s'.ptr bs ∧
      bs.length = s'.len) →
    s.crc = s'.crc →
    ∃ t t' u u', exec (updateInstr hw) s = .next t ∧ exec (updateInstr hw') s' = .next t' ∧
      engineRun s.len t = .next u ∧ engineRun s'.len t' = .next u' ∧ u.crc = u'.crc

/-- Derived from R153: on the same state `UPDATE.SW` and `UPDATE.HW` end with the same `CRC`, `PTR`, `LEN` and flags. -/
def Obligations.PathsAreEquivalent : Prop :=
  ∀ (s : State) (bs : List Byte), s.Inv → s.ready → s.mayUse true → s.ptr + s.len ≤ s.params.space →
    s.holds s.ptr bs → bs.length = s.len →
    ∃ t t' u u', exec .updateSw s = .next t ∧ exec .updateHw s = .next t' ∧
      engineRun s.len t = .next u ∧ engineRun s.len t' = .next u' ∧
      u.crc = u'.crc ∧ u.ptr = u'.ptr ∧ u.len = u'.len ∧ u.statusWord = u'.statusWord

/-- R152: a buffer folded by one `UPDATE`, or by several over consecutive pieces on paths chosen piece by piece,
each starting from the `CRC` and `PTR` the one before left, gives the same `CRC`. -/
def Obligations.ChunkingDoesNotMatter : Prop :=
  ∀ (s : State) (pieces : List (List Byte × Bool)), s.Inv → s.ready →
    (∀ x ∈ pieces, s.mayUse x.2 ∧ x.1.length < s.params.space) →
    s.ptr + (pieces.map Prod.fst).flatten.length ≤ s.params.space →
    s.holds s.ptr (pieces.map Prod.fst).flatten →
    ∃ u, updatePieces pieces s = .next u ∧ u.crc = fold s.crc (pieces.map Prod.fst).flatten

/-- Derived from R147, its bound: every accepted `UPDATE`, readable or not, completes or takes a `BusError` within `LEN`
turns of the engine. -/
def Obligations.UpdateEndsWithinLenSteps : Prop :=
  ∀ s : State, s.Inv → s.busy = true →
    ∃ t, engineRun s.len s = .next t ∧ t.busy = false ∧
      ((t.done = true ∧ t.err = false ∧ t.len = 0) ∨ (t.done = false ∧ t.err = true ∧ t.ecode = 4#3))

/-- Derived from R88, R160 and R150: the synchronous call `UPDATE c, a, n, hw` through the register interface
returns the fold: the last value the host read is `CRC`'s, and the engine is idle with `DONE` set and no error.
One engine turn between two polls of its `WAIT` is the model's choice (log entry 7). -/
def Obligations.SynchronousCallReturnsTheFold : Prop :=
  ∀ (s : State) (c : Word) (a n : Nat) (hw : Bool) (bs : List Byte) (rest : List Event),
    s.Inv → s.ready → s.mayUse hw → a < s.params.space → n < s.params.space → a + n ≤ s.params.space →
    s.holds a bs → bs.length = n → s.inbox = seqUpdate c a n hw ++ rest →
    ∃ k t, Host.Core.run Sys2Proof.core k s = .next t ∧ t.inbox = rest ∧ t.crc = fold c bs ∧
      t.outbox.getLast? = some ⟨.crc, (fold c bs).toNat⟩ ∧ t.ready ∧ t.done = true

/-- Derived from R50, R58: a turn of the engine depends on memory only through the bytes of the buffer: change
any other byte, and the next state differs in memory alone (values that a `BusError` leaves unspecified are drawn at
the same count in both, log entry 4). -/
def Obligations.OnlyTheBufferMatters : Prop :=
  ∀ (s t : State) (m : Memory), s.Inv → s.busy = true →
    (∀ a, s.ptr ≤ a → a < s.ptr + s.len → ({ s with mem := m } : State).readByte a = s.readByte a) →
    engineStep s = .next t → engineStep { s with mem := m } = .next { t with mem := m }

/-- Derived from R162, R164 (b) and (d): `FILESUM` from offset 0, whatever the capacity and the path, over reads
that fill the buffer and a last one that does not, ends as a checksum, and the last value the host read from `CRC`
is the fold of the whole file from `INITIAL_CRC`. One engine turn between two polls of each `WAIT` is the model's
choice (log entry 7). -/
def Obligations.FilesumReturnsTheFoldOfTheFile : Prop :=
  ∀ (s : State) (buf cap : Nat) (hw : Bool) (chunks : List (List Byte)) (last : List Byte) (rest : List Event),
    s.Inv → s.ready → s.mayUse hw → cap < s.params.space → buf + cap ≤ s.params.space →
    (∀ c ∈ chunks, c.length = cap) → last.length < cap →
    s.inbox = (seqFilesum buf cap 0 hw (chunks.map .data ++ [.data last])).1 ++ rest →
    (seqFilesum buf cap 0 hw (chunks.map .data ++ [.data last])).2 = .checksum ∧
    ∃ k t, Host.Core.run Sys2Proof.core k s = .next t ∧ t.inbox = rest ∧
      t.outbox.getLast? = some ⟨.crc, (fold Config.initialCrc (chunks.flatten ++ last)).toNat⟩
end

