-- ==== Sys2Proof/Laws/State.lean ====
section
/-! SUPPORT. One lemma per field and per named update of State: what each update leaves in each field. An update
that branches (`raise` on its cause, `accept` and `complete` on `LEN`) has a lemma here for every field it settles
the same way on every branch. -/

namespace Sys2Proof.Machine

/-! ### `poke` -/

@[simp] theorem State.poke_params (s : State) (a : Nat) (b : Option Byte) : (s.poke a b).params = s.params := rfl
@[simp] theorem State.poke_crc (s : State) (a : Nat) (b : Option Byte) : (s.poke a b).crc = s.crc := rfl
@[simp] theorem State.poke_ptr (s : State) (a : Nat) (b : Option Byte) : (s.poke a b).ptr = s.ptr := rfl
@[simp] theorem State.poke_len (s : State) (a : Nat) (b : Option Byte) : (s.poke a b).len = s.len := rfl
@[simp] theorem State.poke_busy (s : State) (a : Nat) (b : Option Byte) : (s.poke a b).busy = s.busy := rfl
@[simp] theorem State.poke_done (s : State) (a : Nat) (b : Option Byte) : (s.poke a b).done = s.done := rfl
@[simp] theorem State.poke_err (s : State) (a : Nat) (b : Option Byte) : (s.poke a b).err = s.err := rfl
@[simp] theorem State.poke_ecode (s : State) (a : Nat) (b : Option Byte) : (s.poke a b).ecode = s.ecode := rfl
@[simp] theorem State.poke_path (s : State) (a : Nat) (b : Option Byte) : (s.poke a b).path = s.path := rfl
@[simp] theorem State.poke_mem (s : State) (a : Nat) (b : Option Byte) : (s.poke a b).mem = s.mem.poke a b := rfl
@[simp] theorem State.poke_inbox (s : State) (a : Nat) (b : Option Byte) : (s.poke a b).inbox = s.inbox := rfl
@[simp] theorem State.poke_outbox (s : State) (a : Nat) (b : Option Byte) : (s.poke a b).outbox = s.outbox := rfl
@[simp] theorem State.poke_accesses (s : State) (a : Nat) (b : Option Byte) : (s.poke a b).accesses = s.accesses := rfl
@[simp] theorem State.poke_draws (s : State) (a : Nat) (b : Option Byte) : (s.poke a b).draws = s.draws := rfl

/-! ### `noteRead` -/

@[simp] theorem State.noteRead_params (s : State) (a n : Nat) : (s.noteRead a n).params = s.params := rfl
@[simp] theorem State.noteRead_crc (s : State) (a n : Nat) : (s.noteRead a n).crc = s.crc := rfl
@[simp] theorem State.noteRead_ptr (s : State) (a n : Nat) : (s.noteRead a n).ptr = s.ptr := rfl
@[simp] theorem State.noteRead_len (s : State) (a n : Nat) : (s.noteRead a n).len = s.len := rfl
@[simp] theorem State.noteRead_busy (s : State) (a n : Nat) : (s.noteRead a n).busy = s.busy := rfl
@[simp] theorem State.noteRead_done (s : State) (a n : Nat) : (s.noteRead a n).done = s.done := rfl
@[simp] theorem State.noteRead_err (s : State) (a n : Nat) : (s.noteRead a n).err = s.err := rfl
@[simp] theorem State.noteRead_ecode (s : State) (a n : Nat) : (s.noteRead a n).ecode = s.ecode := rfl
@[simp] theorem State.noteRead_path (s : State) (a n : Nat) : (s.noteRead a n).path = s.path := rfl
@[simp] theorem State.noteRead_mem (s : State) (a n : Nat) : (s.noteRead a n).mem = s.mem := rfl
@[simp] theorem State.noteRead_inbox (s : State) (a n : Nat) : (s.noteRead a n).inbox = s.inbox := rfl
@[simp] theorem State.noteRead_outbox (s : State) (a n : Nat) : (s.noteRead a n).outbox = s.outbox := rfl
@[simp] theorem State.noteRead_accesses (s : State) (a n : Nat) : (s.noteRead a n).accesses = s.accesses ++ [⟨a, n⟩] := rfl
@[simp] theorem State.noteRead_draws (s : State) (a n : Nat) : (s.noteRead a n).draws = s.draws := rfl

/-! ### `setCrc` -/

@[simp] theorem State.setCrc_params (s : State) (v : Word) : (s.setCrc v).params = s.params := rfl
@[simp] theorem State.setCrc_crc (s : State) (v : Word) : (s.setCrc v).crc = v := rfl
@[simp] theorem State.setCrc_ptr (s : State) (v : Word) : (s.setCrc v).ptr = s.ptr := rfl
@[simp] theorem State.setCrc_len (s : State) (v : Word) : (s.setCrc v).len = s.len := rfl
@[simp] theorem State.setCrc_busy (s : State) (v : Word) : (s.setCrc v).busy = s.busy := rfl
@[simp] theorem State.setCrc_done (s : State) (v : Word) : (s.setCrc v).done = s.done := rfl
@[simp] theorem State.setCrc_err (s : State) (v : Word) : (s.setCrc v).err = s.err := rfl
@[simp] theorem State.setCrc_ecode (s : State) (v : Word) : (s.setCrc v).ecode = s.ecode := rfl
@[simp] theorem State.setCrc_path (s : State) (v : Word) : (s.setCrc v).path = s.path := rfl
@[simp] theorem State.setCrc_mem (s : State) (v : Word) : (s.setCrc v).mem = s.mem := rfl
@[simp] theorem State.setCrc_inbox (s : State) (v : Word) : (s.setCrc v).inbox = s.inbox := rfl
@[simp] theorem State.setCrc_outbox (s : State) (v : Word) : (s.setCrc v).outbox = s.outbox := rfl
@[simp] theorem State.setCrc_accesses (s : State) (v : Word) : (s.setCrc v).accesses = s.accesses := rfl
@[simp] theorem State.setCrc_draws (s : State) (v : Word) : (s.setCrc v).draws = s.draws := rfl

/-! ### `setPtr` -/

@[simp] theorem State.setPtr_params (s : State) (v : Nat) : (s.setPtr v).params = s.params := rfl
@[simp] theorem State.setPtr_crc (s : State) (v : Nat) : (s.setPtr v).crc = s.crc := rfl
@[simp] theorem State.setPtr_ptr (s : State) (v : Nat) : (s.setPtr v).ptr = v % s.params.space := rfl
@[simp] theorem State.setPtr_len (s : State) (v : Nat) : (s.setPtr v).len = s.len := rfl
@[simp] theorem State.setPtr_busy (s : State) (v : Nat) : (s.setPtr v).busy = s.busy := rfl
@[simp] theorem State.setPtr_done (s : State) (v : Nat) : (s.setPtr v).done = s.done := rfl
@[simp] theorem State.setPtr_err (s : State) (v : Nat) : (s.setPtr v).err = s.err := rfl
@[simp] theorem State.setPtr_ecode (s : State) (v : Nat) : (s.setPtr v).ecode = s.ecode := rfl
@[simp] theorem State.setPtr_path (s : State) (v : Nat) : (s.setPtr v).path = s.path := rfl
@[simp] theorem State.setPtr_mem (s : State) (v : Nat) : (s.setPtr v).mem = s.mem := rfl
@[simp] theorem State.setPtr_inbox (s : State) (v : Nat) : (s.setPtr v).inbox = s.inbox := rfl
@[simp] theorem State.setPtr_outbox (s : State) (v : Nat) : (s.setPtr v).outbox = s.outbox := rfl
@[simp] theorem State.setPtr_accesses (s : State) (v : Nat) : (s.setPtr v).accesses = s.accesses := rfl
@[simp] theorem State.setPtr_draws (s : State) (v : Nat) : (s.setPtr v).draws = s.draws := rfl

/-! ### `setLen` -/

@[simp] theorem State.setLen_params (s : State) (v : Nat) : (s.setLen v).params = s.params := rfl
@[simp] theorem State.setLen_crc (s : State) (v : Nat) : (s.setLen v).crc = s.crc := rfl
@[simp] theorem State.setLen_ptr (s : State) (v : Nat) : (s.setLen v).ptr = s.ptr := rfl
@[simp] theorem State.setLen_len (s : State) (v : Nat) : (s.setLen v).len = v % s.params.space := rfl
@[simp] theorem State.setLen_busy (s : State) (v : Nat) : (s.setLen v).busy = s.busy := rfl
@[simp] theorem State.setLen_done (s : State) (v : Nat) : (s.setLen v).done = s.done := rfl
@[simp] theorem State.setLen_err (s : State) (v : Nat) : (s.setLen v).err = s.err := rfl
@[simp] theorem State.setLen_ecode (s : State) (v : Nat) : (s.setLen v).ecode = s.ecode := rfl
@[simp] theorem State.setLen_path (s : State) (v : Nat) : (s.setLen v).path = s.path := rfl
@[simp] theorem State.setLen_mem (s : State) (v : Nat) : (s.setLen v).mem = s.mem := rfl
@[simp] theorem State.setLen_inbox (s : State) (v : Nat) : (s.setLen v).inbox = s.inbox := rfl
@[simp] theorem State.setLen_outbox (s : State) (v : Nat) : (s.setLen v).outbox = s.outbox := rfl
@[simp] theorem State.setLen_accesses (s : State) (v : Nat) : (s.setLen v).accesses = s.accesses := rfl
@[simp] theorem State.setLen_draws (s : State) (v : Nat) : (s.setLen v).draws = s.draws := rfl

/-! ### `advance` -/

@[simp] theorem State.advance_params (s : State) (n : Nat) : (s.advance n).params = s.params := rfl
@[simp] theorem State.advance_crc (s : State) (n : Nat) : (s.advance n).crc = s.crc := rfl
@[simp] theorem State.advance_ptr (s : State) (n : Nat) : (s.advance n).ptr = (s.ptr + n) % s.params.space := rfl
@[simp] theorem State.advance_len (s : State) (n : Nat) : (s.advance n).len = (s.len + s.params.space - n) % s.params.space := rfl
@[simp] theorem State.advance_busy (s : State) (n : Nat) : (s.advance n).busy = s.busy := rfl
@[simp] theorem State.advance_done (s : State) (n : Nat) : (s.advance n).done = s.done := rfl
@[simp] theorem State.advance_err (s : State) (n : Nat) : (s.advance n).err = s.err := rfl
@[simp] theorem State.advance_ecode (s : State) (n : Nat) : (s.advance n).ecode = s.ecode := rfl
@[simp] theorem State.advance_path (s : State) (n : Nat) : (s.advance n).path = s.path := rfl
@[simp] theorem State.advance_mem (s : State) (n : Nat) : (s.advance n).mem = s.mem := rfl
@[simp] theorem State.advance_inbox (s : State) (n : Nat) : (s.advance n).inbox = s.inbox := rfl
@[simp] theorem State.advance_outbox (s : State) (n : Nat) : (s.advance n).outbox = s.outbox := rfl
@[simp] theorem State.advance_accesses (s : State) (n : Nat) : (s.advance n).accesses = s.accesses := rfl
@[simp] theorem State.advance_draws (s : State) (n : Nat) : (s.advance n).draws = s.draws := rfl

/-! ### `retire` -/

@[simp] theorem State.retire_params (s : State) (v : Word) (n : Nat) : (s.retire v n).params = s.params := rfl
@[simp] theorem State.retire_crc (s : State) (v : Word) (n : Nat) : (s.retire v n).crc = v := rfl
@[simp] theorem State.retire_ptr (s : State) (v : Word) (n : Nat) : (s.retire v n).ptr = (s.ptr + n) % s.params.space := rfl
@[simp] theorem State.retire_len (s : State) (v : Word) (n : Nat) : (s.retire v n).len = (s.len + s.params.space - n) % s.params.space := rfl
@[simp] theorem State.retire_busy (s : State) (v : Word) (n : Nat) : (s.retire v n).busy = s.busy := rfl
@[simp] theorem State.retire_done (s : State) (v : Word) (n : Nat) : (s.retire v n).done = s.done := rfl
@[simp] theorem State.retire_err (s : State) (v : Word) (n : Nat) : (s.retire v n).err = s.err := rfl
@[simp] theorem State.retire_ecode (s : State) (v : Word) (n : Nat) : (s.retire v n).ecode = s.ecode := rfl
@[simp] theorem State.retire_path (s : State) (v : Word) (n : Nat) : (s.retire v n).path = s.path := rfl
@[simp] theorem State.retire_mem (s : State) (v : Word) (n : Nat) : (s.retire v n).mem = s.mem := rfl
@[simp] theorem State.retire_inbox (s : State) (v : Word) (n : Nat) : (s.retire v n).inbox = s.inbox := rfl
@[simp] theorem State.retire_outbox (s : State) (v : Word) (n : Nat) : (s.retire v n).outbox = s.outbox := rfl
@[simp] theorem State.retire_accesses (s : State) (v : Word) (n : Nat) : (s.retire v n).accesses = s.accesses := rfl
@[simp] theorem State.retire_draws (s : State) (v : Word) (n : Nat) : (s.retire v n).draws = s.draws := rfl

/-! ### `clobber` -/

@[simp] theorem State.clobber_params (s : State) : (s.clobber).params = s.params := rfl
@[simp] theorem State.clobber_crc (s : State) : (s.clobber).crc = Config.freeCrc s.draws := rfl
@[simp] theorem State.clobber_ptr (s : State) : (s.clobber).ptr = Config.freePtr s.draws % s.params.space := rfl
@[simp] theorem State.clobber_len (s : State) : (s.clobber).len = Config.freeLen s.draws % s.params.space := rfl
@[simp] theorem State.clobber_busy (s : State) : (s.clobber).busy = s.busy := rfl
@[simp] theorem State.clobber_done (s : State) : (s.clobber).done = s.done := rfl
@[simp] theorem State.clobber_err (s : State) : (s.clobber).err = s.err := rfl
@[simp] theorem State.clobber_ecode (s : State) : (s.clobber).ecode = s.ecode := rfl
@[simp] theorem State.clobber_path (s : State) : (s.clobber).path = s.path := rfl
@[simp] theorem State.clobber_mem (s : State) : (s.clobber).mem = s.mem := rfl
@[simp] theorem State.clobber_inbox (s : State) : (s.clobber).inbox = s.inbox := rfl
@[simp] theorem State.clobber_outbox (s : State) : (s.clobber).outbox = s.outbox := rfl
@[simp] theorem State.clobber_accesses (s : State) : (s.clobber).accesses = s.accesses := rfl
@[simp] theorem State.clobber_draws (s : State) : (s.clobber).draws = s.draws + 1 := rfl

/-! ### `enterError` -/

@[simp] theorem State.enterError_params (s : State) (e : ErrCause) : (s.enterError e).params = s.params := rfl
@[simp] theorem State.enterError_crc (s : State) (e : ErrCause) : (s.enterError e).crc = s.crc := rfl
@[simp] theorem State.enterError_ptr (s : State) (e : ErrCause) : (s.enterError e).ptr = s.ptr := rfl
@[simp] theorem State.enterError_len (s : State) (e : ErrCause) : (s.enterError e).len = s.len := rfl
@[simp] theorem State.enterError_busy (s : State) (e : ErrCause) : (s.enterError e).busy = false := rfl
@[simp] theorem State.enterError_done (s : State) (e : ErrCause) : (s.enterError e).done = false := rfl
@[simp] theorem State.enterError_err (s : State) (e : ErrCause) : (s.enterError e).err = true := rfl
@[simp] theorem State.enterError_ecode (s : State) (e : ErrCause) : (s.enterError e).ecode = e.code := rfl
@[simp] theorem State.enterError_path (s : State) (e : ErrCause) : (s.enterError e).path = s.path := rfl
@[simp] theorem State.enterError_mem (s : State) (e : ErrCause) : (s.enterError e).mem = s.mem := rfl
@[simp] theorem State.enterError_inbox (s : State) (e : ErrCause) : (s.enterError e).inbox = s.inbox := rfl
@[simp] theorem State.enterError_outbox (s : State) (e : ErrCause) : (s.enterError e).outbox = s.outbox := rfl
@[simp] theorem State.enterError_accesses (s : State) (e : ErrCause) : (s.enterError e).accesses = s.accesses := rfl
@[simp] theorem State.enterError_draws (s : State) (e : ErrCause) : (s.enterError e).draws = s.draws := rfl

/-! ### `raise` -/

@[simp] theorem State.raise_params (s : State) (e : ErrCause) : (s.raise e).params = s.params := by cases e <;> rfl
@[simp] theorem State.raise_busy (s : State) (e : ErrCause) : (s.raise e).busy = false := by cases e <;> rfl
@[simp] theorem State.raise_done (s : State) (e : ErrCause) : (s.raise e).done = false := by cases e <;> rfl
@[simp] theorem State.raise_err (s : State) (e : ErrCause) : (s.raise e).err = true := by cases e <;> rfl
@[simp] theorem State.raise_ecode (s : State) (e : ErrCause) : (s.raise e).ecode = e.code := by cases e <;> rfl
@[simp] theorem State.raise_path (s : State) (e : ErrCause) : (s.raise e).path = s.path := by cases e <;> rfl
@[simp] theorem State.raise_mem (s : State) (e : ErrCause) : (s.raise e).mem = s.mem := by cases e <;> rfl
@[simp] theorem State.raise_inbox (s : State) (e : ErrCause) : (s.raise e).inbox = s.inbox := by cases e <;> rfl
@[simp] theorem State.raise_outbox (s : State) (e : ErrCause) : (s.raise e).outbox = s.outbox := by cases e <;> rfl
@[simp] theorem State.raise_accesses (s : State) (e : ErrCause) : (s.raise e).accesses = s.accesses := by cases e <;> rfl

/-! ### `leaveError` -/

@[simp] theorem State.leaveError_params (s : State) : (s.leaveError).params = s.params := rfl
@[simp] theorem State.leaveError_crc (s : State) : (s.leaveError).crc = s.crc := rfl
@[simp] theorem State.leaveError_ptr (s : State) : (s.leaveError).ptr = s.ptr := rfl
@[simp] theorem State.leaveError_len (s : State) : (s.leaveError).len = s.len := rfl
@[simp] theorem State.leaveError_busy (s : State) : (s.leaveError).busy = s.busy := rfl
@[simp] theorem State.leaveError_done (s : State) : (s.leaveError).done = s.done := rfl
@[simp] theorem State.leaveError_err (s : State) : (s.leaveError).err = false := rfl
@[simp] theorem State.leaveError_ecode (s : State) : (s.leaveError).ecode = 0#3 := rfl
@[simp] theorem State.leaveError_path (s : State) : (s.leaveError).path = s.path := rfl
@[simp] theorem State.leaveError_mem (s : State) : (s.leaveError).mem = s.mem := rfl
@[simp] theorem State.leaveError_inbox (s : State) : (s.leaveError).inbox = s.inbox := rfl
@[simp] theorem State.leaveError_outbox (s : State) : (s.leaveError).outbox = s.outbox := rfl
@[simp] theorem State.leaveError_accesses (s : State) : (s.leaveError).accesses = s.accesses := rfl
@[simp] theorem State.leaveError_draws (s : State) : (s.leaveError).draws = s.draws := rfl

/-! ### `resetEvent` -/

@[simp] theorem State.resetEvent_params (s : State) : (s.resetEvent).params = s.params := rfl
@[simp] theorem State.resetEvent_crc (s : State) : (s.resetEvent).crc = Config.freeCrc s.draws := rfl
@[simp] theorem State.resetEvent_ptr (s : State) : (s.resetEvent).ptr = Config.freePtr s.draws % s.params.space := rfl
@[simp] theorem State.resetEvent_len (s : State) : (s.resetEvent).len = Config.freeLen s.draws % s.params.space := rfl
@[simp] theorem State.resetEvent_busy (s : State) : (s.resetEvent).busy = false := rfl
@[simp] theorem State.resetEvent_done (s : State) : (s.resetEvent).done = false := rfl
@[simp] theorem State.resetEvent_err (s : State) : (s.resetEvent).err = false := rfl
@[simp] theorem State.resetEvent_ecode (s : State) : (s.resetEvent).ecode = 0#3 := rfl
@[simp] theorem State.resetEvent_path (s : State) : (s.resetEvent).path = if Config.freePath s.draws then .hw else .sw := rfl
@[simp] theorem State.resetEvent_mem (s : State) : (s.resetEvent).mem = s.mem := rfl
@[simp] theorem State.resetEvent_inbox (s : State) : (s.resetEvent).inbox = s.inbox := rfl
@[simp] theorem State.resetEvent_outbox (s : State) : (s.resetEvent).outbox = s.outbox := rfl
@[simp] theorem State.resetEvent_accesses (s : State) : (s.resetEvent).accesses = s.accesses := rfl
@[simp] theorem State.resetEvent_draws (s : State) : (s.resetEvent).draws = s.draws + 1 := rfl

/-! ### `accept` -/

@[simp] theorem State.accept_params (s : State) (p : Path) : (s.accept p).params = s.params := by unfold State.accept; split <;> rfl
@[simp] theorem State.accept_crc (s : State) (p : Path) : (s.accept p).crc = s.crc := by unfold State.accept; split <;> rfl
@[simp] theorem State.accept_ptr (s : State) (p : Path) : (s.accept p).ptr = s.ptr := by unfold State.accept; split <;> rfl
@[simp] theorem State.accept_len (s : State) (p : Path) : (s.accept p).len = s.len := by unfold State.accept; split <;> rfl
@[simp] theorem State.accept_err (s : State) (p : Path) : (s.accept p).err = s.err := by unfold State.accept; split <;> rfl
@[simp] theorem State.accept_ecode (s : State) (p : Path) : (s.accept p).ecode = s.ecode := by unfold State.accept; split <;> rfl
@[simp] theorem State.accept_path (s : State) (p : Path) : (s.accept p).path = p := by unfold State.accept; split <;> rfl
@[simp] theorem State.accept_mem (s : State) (p : Path) : (s.accept p).mem = s.mem := by unfold State.accept; split <;> rfl
@[simp] theorem State.accept_inbox (s : State) (p : Path) : (s.accept p).inbox = s.inbox := by unfold State.accept; split <;> rfl
@[simp] theorem State.accept_outbox (s : State) (p : Path) : (s.accept p).outbox = s.outbox := by unfold State.accept; split <;> rfl
@[simp] theorem State.accept_accesses (s : State) (p : Path) : (s.accept p).accesses = s.accesses := by unfold State.accept; split <;> rfl
@[simp] theorem State.accept_draws (s : State) (p : Path) : (s.accept p).draws = s.draws := by unfold State.accept; split <;> rfl

/-! ### `complete` -/

@[simp] theorem State.complete_params (s : State) : (s.complete).params = s.params := by unfold State.complete; split <;> rfl
@[simp] theorem State.complete_crc (s : State) : (s.complete).crc = s.crc := by unfold State.complete; split <;> rfl
@[simp] theorem State.complete_ptr (s : State) : (s.complete).ptr = s.ptr := by unfold State.complete; split <;> rfl
@[simp] theorem State.complete_len (s : State) : (s.complete).len = s.len := by unfold State.complete; split <;> rfl
@[simp] theorem State.complete_err (s : State) : (s.complete).err = s.err := by unfold State.complete; split <;> rfl
@[simp] theorem State.complete_ecode (s : State) : (s.complete).ecode = s.ecode := by unfold State.complete; split <;> rfl
@[simp] theorem State.complete_path (s : State) : (s.complete).path = s.path := by unfold State.complete; split <;> rfl
@[simp] theorem State.complete_mem (s : State) : (s.complete).mem = s.mem := by unfold State.complete; split <;> rfl
@[simp] theorem State.complete_inbox (s : State) : (s.complete).inbox = s.inbox := by unfold State.complete; split <;> rfl
@[simp] theorem State.complete_outbox (s : State) : (s.complete).outbox = s.outbox := by unfold State.complete; split <;> rfl
@[simp] theorem State.complete_accesses (s : State) : (s.complete).accesses = s.accesses := by unfold State.complete; split <;> rfl
@[simp] theorem State.complete_draws (s : State) : (s.complete).draws = s.draws := by unfold State.complete; split <;> rfl

/-! ### `acceptInRange` -/

@[simp] theorem State.acceptInRange_params (s : State) (p : Path) : (s.acceptInRange p).params = s.params := by unfold State.acceptInRange; split <;> simp [State.raise]
@[simp] theorem State.acceptInRange_crc (s : State) (p : Path) : (s.acceptInRange p).crc = s.crc := by unfold State.acceptInRange; split <;> simp [State.raise]
@[simp] theorem State.acceptInRange_ptr (s : State) (p : Path) : (s.acceptInRange p).ptr = s.ptr := by unfold State.acceptInRange; split <;> simp [State.raise]
@[simp] theorem State.acceptInRange_len (s : State) (p : Path) : (s.acceptInRange p).len = s.len := by unfold State.acceptInRange; split <;> simp [State.raise]
@[simp] theorem State.acceptInRange_mem (s : State) (p : Path) : (s.acceptInRange p).mem = s.mem := by unfold State.acceptInRange; split <;> simp [State.raise]
@[simp] theorem State.acceptInRange_inbox (s : State) (p : Path) : (s.acceptInRange p).inbox = s.inbox := by unfold State.acceptInRange; split <;> simp [State.raise]
@[simp] theorem State.acceptInRange_outbox (s : State) (p : Path) : (s.acceptInRange p).outbox = s.outbox := by unfold State.acceptInRange; split <;> simp [State.raise]
@[simp] theorem State.acceptInRange_accesses (s : State) (p : Path) : (s.acceptInRange p).accesses = s.accesses := by unfold State.acceptInRange; split <;> simp [State.raise]
@[simp] theorem State.acceptInRange_draws (s : State) (p : Path) : (s.acceptInRange p).draws = s.draws := by unfold State.acceptInRange; split <;> simp [State.raise]

/-! ### `hostRead` -/

@[simp] theorem State.hostRead_params (s : State) (r : Reg) : (s.hostRead r).params = s.params := rfl
@[simp] theorem State.hostRead_crc (s : State) (r : Reg) : (s.hostRead r).crc = s.crc := rfl
@[simp] theorem State.hostRead_ptr (s : State) (r : Reg) : (s.hostRead r).ptr = s.ptr := rfl
@[simp] theorem State.hostRead_len (s : State) (r : Reg) : (s.hostRead r).len = s.len := rfl
@[simp] theorem State.hostRead_busy (s : State) (r : Reg) : (s.hostRead r).busy = s.busy := rfl
@[simp] theorem State.hostRead_done (s : State) (r : Reg) : (s.hostRead r).done = s.done := rfl
@[simp] theorem State.hostRead_err (s : State) (r : Reg) : (s.hostRead r).err = s.err := rfl
@[simp] theorem State.hostRead_ecode (s : State) (r : Reg) : (s.hostRead r).ecode = s.ecode := rfl
@[simp] theorem State.hostRead_path (s : State) (r : Reg) : (s.hostRead r).path = s.path := rfl
@[simp] theorem State.hostRead_mem (s : State) (r : Reg) : (s.hostRead r).mem = s.mem := rfl
@[simp] theorem State.hostRead_inbox (s : State) (r : Reg) : (s.hostRead r).inbox = s.inbox := rfl
@[simp] theorem State.hostRead_outbox (s : State) (r : Reg) : (s.hostRead r).outbox = s.outbox ++ [⟨r, s.readValue r⟩] := rfl
@[simp] theorem State.hostRead_accesses (s : State) (r : Reg) : (s.hostRead r).accesses = s.accesses := rfl
@[simp] theorem State.hostRead_draws (s : State) (r : Reg) : (s.hostRead r).draws = if s.readDraws r then s.draws + 1 else s.draws := rfl

/-! ### `waitPoll` -/

@[simp] theorem State.waitPoll_params (s : State) : (s.waitPoll).params = s.params := by unfold State.waitPoll; split <;> rfl
@[simp] theorem State.waitPoll_crc (s : State) : (s.waitPoll).crc = s.crc := by unfold State.waitPoll; split <;> rfl
@[simp] theorem State.waitPoll_ptr (s : State) : (s.waitPoll).ptr = s.ptr := by unfold State.waitPoll; split <;> rfl
@[simp] theorem State.waitPoll_len (s : State) : (s.waitPoll).len = s.len := by unfold State.waitPoll; split <;> rfl
@[simp] theorem State.waitPoll_busy (s : State) : (s.waitPoll).busy = s.busy := by unfold State.waitPoll; split <;> rfl
@[simp] theorem State.waitPoll_done (s : State) : (s.waitPoll).done = s.done := by unfold State.waitPoll; split <;> rfl
@[simp] theorem State.waitPoll_err (s : State) : (s.waitPoll).err = s.err := by unfold State.waitPoll; split <;> rfl
@[simp] theorem State.waitPoll_ecode (s : State) : (s.waitPoll).ecode = s.ecode := by unfold State.waitPoll; split <;> rfl
@[simp] theorem State.waitPoll_path (s : State) : (s.waitPoll).path = s.path := by unfold State.waitPoll; split <;> rfl
@[simp] theorem State.waitPoll_mem (s : State) : (s.waitPoll).mem = s.mem := by unfold State.waitPoll; split <;> rfl
@[simp] theorem State.waitPoll_outbox (s : State) : (s.waitPoll).outbox = s.outbox ++ [⟨.status, s.statusWord.toNat⟩] := by unfold State.waitPoll; split <;> rfl
@[simp] theorem State.waitPoll_accesses (s : State) : (s.waitPoll).accesses = s.accesses := by unfold State.waitPoll; split <;> rfl
@[simp] theorem State.waitPoll_draws (s : State) : (s.waitPoll).draws = s.draws := by unfold State.waitPoll; split <;> rfl

end Sys2Proof.Machine
end

