-- ==== Sys2Proof/Laws/Memory.lean ====
section
/-! SUPPORT. The buffer space: a read after an environment's change, the canonical form kept by every memory
operation, and the reads of several bytes said through the reads of one. -/

namespace Sys2Proof.Machine

/-! ### One byte -/

theorem Memory.read_eq_none {m : Memory} {a : Nat} (h : ∀ c ∈ m, c.1 ≠ a) : Memory.read m a = none := by
  induction m with
  | nil => rfl
  | cons c m ih =>
    have h1 : c.1 ≠ a := h c (by simp)
    simp only [Memory.read, if_neg h1]
    exact ih fun d hd => h d (by simp [hd])

theorem Memory.read_store_same (m : Memory) (a : Nat) (b : Byte) : (m.store a b).read a = some b := by
  induction m with
  | nil => simp [Memory.store, Memory.read]
  | cons c m ih =>
    obtain ⟨k, v⟩ := c
    simp only [Memory.store]
    split
    · simp [Memory.read]
    · split
      · simp [Memory.read]
      · rename_i h1 h2
        simp only [Memory.read, if_neg (Ne.symm h2)]
        exact ih

theorem Memory.read_store_other (m : Memory) {a x : Nat} (b : Byte) (h : x ≠ a) :
    (m.store a b).read x = m.read x := by
  induction m with
  | nil => simp [Memory.store, Memory.read, Ne.symm h]
  | cons c m ih =>
    obtain ⟨k, v⟩ := c
    simp only [Memory.store]
    split
    · simp [Memory.read, Ne.symm h]
    · split
      · rename_i h2
        subst h2
        simp [Memory.read, Ne.symm h]
      · simp only [Memory.read, ih]

theorem Memory.read_remove_same (m : Memory) (a : Nat) : (m.remove a).read a = none :=
  Memory.read_eq_none fun c hc => by simpa using (List.mem_filter.mp hc).2

theorem Memory.read_remove_other (m : Memory) {a x : Nat} (h : x ≠ a) : (m.remove a).read x = m.read x := by
  induction m with
  | nil => rfl
  | cons c m ih =>
    obtain ⟨k, v⟩ := c
    by_cases hk : k = a
    · subst hk
      simp only [Memory.remove, List.filter, bne_self_eq_false, Memory.read, if_neg (Ne.symm h)]
      exact ih
    · simp only [Memory.remove, List.filter, bne_iff_ne.mpr hk, Memory.read]
      split
      · rfl
      · exact ih

/-- Read after a change: the changed address answers what was set, every other address as before. -/
theorem Memory.read_poke (m : Memory) (a x : Nat) (b : Option Byte) :
    (m.poke a b).read x = if x = a then b else m.read x := by
  cases b with
  | none =>
    simp only [Memory.poke]
    split
    · subst_vars; exact Memory.read_remove_same m _
    · exact Memory.read_remove_other m ‹_›
  | some v =>
    simp only [Memory.poke]
    split
    · subst_vars; exact Memory.read_store_same m _ v
    · exact Memory.read_store_other m v ‹_›

/-- The same through the port: the changed byte, and every other as before. -/
theorem State.readByte_poke (s : State) {a : Nat} (x : Nat) (b : Option Byte) (ha : a < s.params.space) :
    (s.poke a b).readByte x = if x = a then b else s.readByte x := by
  simp only [State.readByte, State.poke, Memory.read_poke]
  by_cases hx : x = a
  · subst hx; simp [ha]
  · simp [hx]

/-! ### The canonical form -/

theorem Memory.mem_store {m : Memory} {a : Nat} {b : Byte} {c : Host.Cell} (h : c ∈ m.store a b) :
    c = (a, b) ∨ c ∈ m := by
  induction m with
  | nil => simpa [Memory.store] using h
  | cons d m ih =>
    obtain ⟨k, v⟩ := d
    simp only [Memory.store] at h
    split at h
    · simpa using h
    · split at h
      · rcases List.mem_cons.mp h with h | h
        · exact .inl h
        · exact .inr (by simp [h])
      · rcases List.mem_cons.mp h with h | h
        · exact .inr (by simp [h])
        · rcases ih h with h | h
          · exact .inl h
          · exact .inr (by simp [h])

theorem Memory.store_pairwise {m : Memory} (a : Nat) (b : Byte) (h : m.Pairwise (fun x y => x.1 < y.1)) :
    (m.store a b).Pairwise (fun x y => x.1 < y.1) := by
  induction m with
  | nil => simp [Memory.store]
  | cons d m ih =>
    obtain ⟨k, v⟩ := d
    obtain ⟨h1, h2⟩ := List.pairwise_cons.mp h
    simp only [Memory.store]
    split
    · refine List.pairwise_cons.mpr ⟨fun c hc => ?_, h⟩
      rcases List.mem_cons.mp hc with rfl | hc
      · assumption
      · exact Nat.lt_trans ‹_› (h1 c hc)
    · split
      · subst_vars
        exact List.pairwise_cons.mpr ⟨h1, h2⟩
      · refine List.pairwise_cons.mpr ⟨fun c hc => ?_, ih h2⟩
        rcases Memory.mem_store hc with rfl | hc
        · simp only at *; omega
        · exact h1 c hc

/-- Every change the environment makes to the buffer space keeps the canonical form. -/
theorem Memory.poke_wf {p : Params} {m : Memory} {a : Nat} (b : Option Byte) (h : m.wf p) (ha : a < p.space) :
    (m.poke a b).wf p := by
  cases b with
  | none => exact ⟨h.1.filter _, fun c hc => h.2 c (List.mem_filter.mp hc).1⟩
  | some v =>
    refine ⟨Memory.store_pairwise a v h.1, fun c hc => ?_⟩
    rcases Memory.mem_store hc with rfl | hc
    · exact ha
    · exact h.2 c hc

/-- The memory after reset is in canonical form. -/
theorem State.powerOn_mem_wf (p : Params) : (State.powerOn p).mem.wf p := by
  simp [State.powerOn, Memory.wf]

/-! ### Several bytes -/

/-- What the port answers for an address depends on the parameters and the memory only. -/
theorem State.readByte_congr {s t : State} (hp : t.params = s.params) (hm : t.mem = s.mem) (a : Nat) :
    t.readByte a = s.readByte a := by
  simp only [State.readByte, hp, hm]

theorem State.readBytes_congr {s t : State} (hp : t.params = s.params) (hm : t.mem = s.mem) (a n : Nat) :
    t.readBytes a n = s.readBytes a n := by
  induction n generalizing a with
  | zero => rfl
  | succ n ih => simp only [State.readBytes, State.readByte_congr hp hm, ih]

@[simp] theorem State.readBytes_zero (s : State) (a : Nat) : s.readBytes a 0 = some [] := rfl

theorem State.readBytes_succ_eq_some {s : State} {a n : Nat} {bs : List Byte} :
    s.readBytes a (n + 1) = some bs ↔
      ∃ b rest, s.readByte a = some b ∧ s.readBytes (a + 1) n = some rest ∧ bs = b :: rest := by
  simp only [State.readBytes]
  cases s.readByte a with
  | none => simp
  | some b =>
    cases s.readBytes (a + 1) n with
    | none => simp
    | some rest => simp [eq_comm]

theorem State.readBytes_length {s : State} {a n : Nat} {bs : List Byte} (h : s.readBytes a n = some bs) :
    bs.length = n := by
  induction n generalizing a bs with
  | zero => simp at h; simp [← h]
  | succ n ih =>
    obtain ⟨b, rest, -, h2, rfl⟩ := State.readBytes_succ_eq_some.mp h
    simp [ih h2]

/-- A run of bytes is readable exactly when its two parts are. -/
theorem State.readBytes_add_eq_some {s : State} {a m n : Nat} {bs : List Byte} :
    s.readBytes a (m + n) = some bs ↔
      ∃ xs ys, s.readBytes a m = some xs ∧ s.readBytes (a + m) n = some ys ∧ bs = xs ++ ys := by
  induction m generalizing a bs with
  | zero => simp [eq_comm]
  | succ m ih =>
    rw [show m + 1 + n = (m + n) + 1 by omega, State.readBytes_succ_eq_some]
    constructor
    · rintro ⟨b, rest, h1, h2, rfl⟩
      obtain ⟨xs, ys, h3, h4, rfl⟩ := ih.mp h2
      exact ⟨b :: xs, ys, State.readBytes_succ_eq_some.mpr ⟨b, xs, h1, h3, rfl⟩,
        by rw [show a + (m + 1) = a + 1 + m by omega]; exact h4, rfl⟩
    · rintro ⟨xs, ys, h1, h2, rfl⟩
      obtain ⟨b, xs', h3, h4, rfl⟩ := State.readBytes_succ_eq_some.mp h1
      refine ⟨b, xs' ++ ys, h3, ih.mpr ⟨xs', ys, h4, ?_, rfl⟩, rfl⟩
      rw [show a + 1 + m = a + (m + 1) by omega]; exact h2

/-- A 2-byte read is served exactly when both its bytes are. -/
theorem State.memRead2_eq_some {s : State} {a : Nat} {h : Half} :
    s.memRead2 a = some h ↔
      ∃ b0 b1, s.readByte a = some b0 ∧ s.readByte (a + 1) = some b1 ∧ h = le16 b0 b1 := by
  simp only [State.memRead2]
  cases s.readByte a <;> cases s.readByte (a + 1) <;> simp [eq_comm]

/-- A 4-byte read is served exactly when all its bytes are. -/
theorem State.memRead4_eq_some {s : State} {a : Nat} {w : Word} :
    s.memRead4 a = some w ↔
      ∃ b0 b1 b2 b3, s.readByte a = some b0 ∧ s.readByte (a + 1) = some b1 ∧ s.readByte (a + 2) = some b2 ∧
        s.readByte (a + 3) = some b3 ∧ w = le32 b0 b1 b2 b3 := by
  simp only [State.memRead4, State.memRead2, le32]
  cases s.readByte a <;> cases s.readByte (a + 1) <;> cases s.readByte (a + 2) <;> cases s.readByte (a + 3) <;>
    simp [eq_comm]

end Sys2Proof.Machine
end

