-- ==== Sys2Proof/Laws/Tables.lean ====
section
/-! SUPPORT. The bit-level facts under the Table Set: one shift of R101 is linear over exclusive or, shifts compose,
a value with no low bits set is only shifted; and how byte extraction, zero extension and exclusive or meet. -/

namespace Sys2Proof.Machine

/-- R101: one shift is linear over exclusive or. -/
theorem bitStep_xor (a b : Word) : bitStep (a ^^^ b) = bitStep a ^^^ bitStep b := by
  simp only [bitStep, BitVec.getLsbD_xor, BitVec.ushiftRight_xor_distrib]
  cases a.getLsbD 0 <;> cases b.getLsbD 0 <;>
    simp only [Bool.xor_false, Bool.xor_true, Bool.not_true, Bool.not_false, if_true, Bool.false_eq_true, if_false]
  · ac_rfl
  · ac_rfl
  · rw [show a >>> 1 ^^^ Config.polyR ^^^ (b >>> 1 ^^^ Config.polyR) =
      a >>> 1 ^^^ b >>> 1 ^^^ (Config.polyR ^^^ Config.polyR) by ac_rfl]
    simp

theorem bitSteps_xor (n : Nat) (a b : Word) : bitSteps n (a ^^^ b) = bitSteps n a ^^^ bitSteps n b := by
  induction n generalizing a b with
  | zero => rfl
  | succ n ih => simp only [bitSteps, bitStep_xor, ih]

theorem bitSteps_add (m n : Nat) (c : Word) : bitSteps (m + n) c = bitSteps n (bitSteps m c) := by
  induction m generalizing c with
  | zero => simp [bitSteps]
  | succ m ih => rw [show m + 1 + n = (m + n) + 1 by omega]; simp only [bitSteps, ih]

/-- While the bits shifted out are zero, the polynomial is never picked up. -/
theorem bitSteps_of_low_zero (c : Word) (n : Nat) (h : ∀ i < n, c.getLsbD i = false) : bitSteps n c = c >>> n := by
  induction n generalizing c with
  | zero => simp [bitSteps]
  | succ n ih =>
    simp only [bitSteps, bitStep, h 0 (by omega), Bool.false_eq_true, if_false]
    rw [ih]
    · apply BitVec.eq_of_getLsbD_eq; intro i hi; simp; congr 1; omega
    · intro i hi; simp; exact h _ (by omega)

@[simp] theorem byteOf_xor (a b : Word) (k : Nat) : byteOf (a ^^^ b) k = byteOf a k ^^^ byteOf b k := by
  apply BitVec.eq_of_getLsbD_eq; intro i hi; simp [byteOf, hi]

@[simp] theorem zext_xor (a b : Byte) : zext (a ^^^ b) = zext a ^^^ zext b := by
  apply BitVec.eq_of_getLsbD_eq; intro i hi; simp [zext, hi]

@[simp] theorem byteOf_zext (b : Byte) : byteOf (zext b) 0 = b := by
  apply BitVec.eq_of_getLsbD_eq; intro i hi; simp [byteOf, zext, hi]; omega

@[simp] theorem zext_shift (b : Byte) : zext b >>> 8 = 0#32 := by
  apply BitVec.eq_of_getLsbD_eq; intro i hi; simp [zext]

/-- A value is its low byte and the rest. -/
theorem low_byte_split (c : Word) : c = zext (byteOf c 0) ^^^ ((c >>> 8) <<< 8) := by
  apply BitVec.eq_of_getLsbD_eq; intro i hi
  by_cases h : i < 8
  · simp [zext, byteOf, hi, h]
  · simp [zext, byteOf, hi, h, show 8 + (i - 8) = i by omega]

theorem le16_getLsbD (b0 b1 : Byte) (i : Nat) :
    (le16 b0 b1).getLsbD i = if i < 8 then b0.getLsbD i else b1.getLsbD (i - 8) := BitVec.getLsbD_append

theorem le32_getLsbD (b0 b1 b2 b3 : Byte) (i : Nat) :
    (le32 b0 b1 b2 b3).getLsbD i =
      if i < 16 then (le16 b0 b1).getLsbD i else (le16 b2 b3).getLsbD (i - 16) := BitVec.getLsbD_append

theorem byteOf_getLsbD (v : Word) (k i : Nat) (hi : i < 8) : (byteOf v k).getLsbD i = v.getLsbD (8 * k + i) := by
  simp [byteOf, hi]

/-- The byte at the lowest address is the least significant (R51, R52). -/
theorem byteOf_le32_0 (b0 b1 b2 b3 : Byte) : byteOf (le32 b0 b1 b2 b3) 0 = b0 := by
  apply BitVec.eq_of_getLsbD_eq; intro i hi
  rw [byteOf_getLsbD _ _ _ hi, le32_getLsbD, if_pos (by omega), le16_getLsbD, if_pos (by omega)]; simp

theorem byteOf_le32_1 (b0 b1 b2 b3 : Byte) : byteOf (le32 b0 b1 b2 b3) 1 = b1 := by
  apply BitVec.eq_of_getLsbD_eq; intro i hi
  rw [byteOf_getLsbD _ _ _ hi, le32_getLsbD, if_pos (by omega), le16_getLsbD, if_neg (by omega)]; congr 1; omega

theorem byteOf_le32_2 (b0 b1 b2 b3 : Byte) : byteOf (le32 b0 b1 b2 b3) 2 = b2 := by
  apply BitVec.eq_of_getLsbD_eq; intro i hi
  rw [byteOf_getLsbD _ _ _ hi, le32_getLsbD, if_neg (by omega), le16_getLsbD, if_pos (by omega)]; congr 1; omega

theorem byteOf_le32_3 (b0 b1 b2 b3 : Byte) : byteOf (le32 b0 b1 b2 b3) 3 = b3 := by
  apply BitVec.eq_of_getLsbD_eq; intro i hi
  rw [byteOf_getLsbD _ _ _ hi, le32_getLsbD, if_neg (by omega), le16_getLsbD, if_neg (by omega)]; congr 1; omega

theorem le16_low (b0 b1 : Byte) : (le16 b0 b1).extractLsb' 0 8 = b0 := by
  apply BitVec.eq_of_getLsbD_eq; intro i hi
  rw [BitVec.getLsbD_extractLsb', le16_getLsbD, if_pos (by omega)]; simp [hi]

theorem le16_high (b0 b1 : Byte) : (le16 b0 b1).extractLsb' 8 8 = b1 := by
  apply BitVec.eq_of_getLsbD_eq; intro i hi
  rw [BitVec.getLsbD_extractLsb', le16_getLsbD, if_neg (by omega)]; simp [hi]

/-- R11: folding composes over concatenation. -/
theorem fold_append (c : Word) (xs ys : List Byte) : fold (fold c xs) ys = fold c (xs ++ ys) := by
  induction xs generalizing c with
  | nil => rfl
  | cons x xs ih => exact ih _

end Sys2Proof.Machine
end

