-- ==== Sys2Proof/Laws/Ops.lean ====
section
/-! SUPPORT. One lemma per shared operation of the datapath and of the commands: everything it can do. -/

namespace Sys2Proof.Machine

theorem Params.space_pos (p : Params) : 0 < p.space := Nat.two_pow_pos p.aw

/-- The update of `LEN` is a plain subtraction when the bytes consumed were there (R9). -/
theorem len_sub_mod {len space n : Nat} (h1 : n ≤ len) (h2 : len < space) :
    (len + space - n) % space = len - n := by
  rw [show len + space - n = (len - n) + space by omega, Nat.add_mod_right, Nat.mod_eq_of_lt (by omega)]

/-- The register update of a micro-operation that found its bytes. -/
theorem State.retire_eq {s : State} {v : Word} {n : Nat} (h1 : n ≤ s.len) (h2 : s.len < s.params.space) :
    s.retire v n = { s with crc := v, ptr := (s.ptr + n) % s.params.space, len := s.len - n } := by
  simp only [State.retire, State.setCrc, State.advance, len_sub_mod h1 h2]

/-- `raise` of each of the three precise errors writes the flags and the code (R176). -/
theorem State.raise_precise {s : State} {e : ErrCause} (h : e ≠ .busError) : s.raise e = s.enterError e := by
  cases e <;> first | rfl | exact absurd rfl h

/-- `raise BusError` (R175, R176). -/
theorem State.raise_busError (s : State) : s.raise .busError = (s.enterError .busError).clobber := rfl

/-- A 1-byte fold: the byte folded, or `BusError`. -/
theorem State.fold1_cases (s : State) (f : Word → Byte → Word) :
    (∃ b, s.memRead1 s.ptr = some b ∧ s.fold1 f = (s.noteRead s.ptr 1).retire (f s.crc b) 1) ∨
    (s.memRead1 s.ptr = none ∧ s.fold1 f = (s.noteRead s.ptr 1).raise .busError) := by
  unfold State.fold1; cases s.memRead1 s.ptr <;> simp

/-- A 2-byte fold: the operand folded, or `BusError`. -/
theorem State.fold2_cases (s : State) (f : Word → Half → Word) :
    (∃ h, s.memRead2 s.ptr = some h ∧ s.fold2 f = (s.noteRead s.ptr 2).retire (f s.crc h) 2) ∨
    (s.memRead2 s.ptr = none ∧ s.fold2 f = (s.noteRead s.ptr 2).raise .busError) := by
  unfold State.fold2; cases s.memRead2 s.ptr <;> simp

/-- A 4-byte fold: the operand folded, or `BusError`. -/
theorem State.fold4_cases (s : State) (f : Word → Word → Word) :
    (∃ w, s.memRead4 s.ptr = some w ∧ s.fold4 f = (s.noteRead s.ptr 4).retire (f s.crc w) 4) ∨
    (s.memRead4 s.ptr = none ∧ s.fold4 f = (s.noteRead s.ptr 4).raise .busError) := by
  unfold State.fold4; cases s.memRead4 s.ptr <;> simp

/-- A bulk step: both words folded, or `BusError` at the first or at the second read. -/
theorem State.fold8_cases (s : State) (f : Word → Word → Word → Word) :
    (∃ w1 w2, s.memRead4 s.ptr = some w1 ∧ s.memRead4 (s.ptr + 4) = some w2 ∧
      s.fold8 f = ((s.noteRead s.ptr 4).noteRead (s.ptr + 4) 4).retire (f s.crc w1 w2) 8) ∨
    (s.memRead4 s.ptr = none ∧ s.fold8 f = (s.noteRead s.ptr 4).raise .busError) ∨
    (∃ w1, s.memRead4 s.ptr = some w1 ∧ s.memRead4 (s.ptr + 4) = none ∧
      s.fold8 f = ((s.noteRead s.ptr 4).noteRead (s.ptr + 4) 4).raise .busError) := by
  unfold State.fold8; cases s.memRead4 s.ptr <;> cases s.memRead4 (s.ptr + 4) <;> simp

/-- The acceptance of an `UPDATE`: `Range`, completion at once, or acceptance. -/
theorem State.acceptInRange_cases (s : State) (p : Path) :
    (s.params.space < s.ptr + s.len ∧ s.acceptInRange p = s.enterError .range) ∨
    (s.ptr + s.len ≤ s.params.space ∧ s.len = 0 ∧ s.acceptInRange p = { s with path := p, done := true }) ∨
    (s.ptr + s.len ≤ s.params.space ∧ s.len ≠ 0 ∧
      s.acceptInRange p = { s with path := p, done := false, busy := true }) := by
  unfold State.acceptInRange State.accept
  by_cases h : s.params.space < s.ptr + s.len
  · exact .inl ⟨h, by simp [h, State.raise]⟩
  · by_cases h0 : s.len = 0
    · exact .inr (.inl ⟨by omega, h0, by rw [if_neg h, if_pos h0]⟩)
    · exact .inr (.inr ⟨by omega, h0, by rw [if_neg h, if_neg h0]⟩)

/-- The completion test of a step. -/
theorem State.complete_cases (s : State) :
    (s.busy = true ∧ s.len = 0 ∧ s.complete = { s with busy := false, done := true }) ∨
    ((s.busy = false ∨ s.len ≠ 0) ∧ s.complete = s) := by
  unfold State.complete
  by_cases h : s.busy = true ∧ s.len = 0
  · exact .inl ⟨h.1, h.2, if_pos h⟩
  · refine .inr ⟨?_, if_neg h⟩
    cases hb : s.busy
    · exact .inl rfl
    · exact .inr fun h0 => h ⟨hb, h0⟩

/-- A fold of the wrapper: the fold where the wrapper is usable, the refusal elsewhere. -/
theorem State.wrapper_cases (s t : State) :
    (s.params.hwBuild = true ∧ s.params.hwcap = true ∧ s.wrapper t = .next t) ∨
    ((s.params.hwBuild = false ∨ s.params.hwcap = false) ∧ s.wrapper t = .refused .wrapperUnavailable) := by
  unfold State.wrapper
  cases s.params.hwBuild <;> cases s.params.hwcap <;> simp

theorem mapNext_eq_next {f : State → State} {o : Host.Outcome State Fault Refusal} {t : State} :
    mapNext f o = .next t ↔ ∃ u, o = .next u ∧ f u = t := by
  cases o <;> simp [mapNext]

end Sys2Proof.Machine
end

