-- ==== Sys2Proof/Laws/Step.lean ====
section
/-! SUPPORT. What a step is, by the head of the inbox and by whether the engine is busy; later proofs rewrite with
these and do not unfold `step`, `turn`, `handle` or `engineStep`. -/

namespace Sys2Proof.Machine

/-! ### The meaning of each arm -/

@[simp] theorem exec_nop (s : State) : exec .nop s = execNop s := rfl
@[simp] theorem exec_updateSw (s : State) : exec .updateSw s = execUpdateSw s := rfl
@[simp] theorem exec_updateHw (s : State) : exec .updateHw s = execUpdateHw s := rfl
@[simp] theorem exec_clrerr (s : State) : exec .clrerr s = execClrerr s := rfl
@[simp] theorem exec_tbyte (s : State) : exec .tbyte s = execTbyte s := rfl
@[simp] theorem exec_slice8 (s : State) : exec .slice8 s = execSlice8 s := rfl
@[simp] theorem exec_crc32B (s : State) : exec .crc32B s = execCrc32B s := rfl
@[simp] theorem exec_crc32H (s : State) : exec .crc32H s = execCrc32H s := rfl
@[simp] theorem exec_crc32W (s : State) : exec .crc32W s = execCrc32W s := rfl

/-! ### The step by its event -/

theorem step_of_nil {s : State} (h : s.inbox = []) : step s = engineStep s := by
  simp only [step, turn, h]

theorem step_of_cons {s : State} {e : Event} {rest : List Event} (h : s.inbox = e :: rest) :
    step s = handle e { s with inbox := rest } := by
  simp only [step, turn, h]

@[simp] theorem handle_read (r : Reg) (s : State) : handle (.read r) s = .next (s.hostRead r) := rfl
@[simp] theorem handle_write (r : Reg) (v : Nat) (s : State) : handle (.write r v) s = hostWrite r v s := rfl
@[simp] theorem handle_wait (s : State) : handle .wait s = .next s.waitPoll := rfl
@[simp] theorem handle_engine (s : State) : handle .engine s = engineStep s := rfl
@[simp] theorem handle_reset (s : State) : handle .reset s = .next s.resetEvent := rfl

theorem handle_poke_inside {s : State} {a : Nat} (b : Option Byte) (h : a < s.params.space) :
    handle (.poke a b) s = .next (s.poke a b) := if_pos h

theorem handle_poke_outside {s : State} {a : Nat} (b : Option Byte) (h : s.params.space ≤ a) :
    handle (.poke a b) s = .fault .noSuchAddress := if_neg (by omega)

/-! ### The host's writes -/

theorem hostWrite_cmd (v : Nat) (s : State) : hostWrite .cmd v s = commandWrite (BitVec.ofNat 32 v) s := rfl

theorem commandWrite_busy {s : State} (w : Word) (h : s.busy = true) : commandWrite w s = .next s := if_pos h

theorem commandWrite_error {s : State} {w : Word} (hb : s.busy = false) (he : s.err = true)
    (hw : w ≠ 0x00000004#32) : commandWrite w s = .next s := by
  simp [commandWrite, hb, he, hw]

theorem commandWrite_decoded {s : State} {w : Word} {i : Instr} (hb : s.busy = false)
    (he : s.err = true → w = 0x00000004#32) (hd : decode (.cmd w) = .ok i) : commandWrite w s = exec i s := by
  have : ¬ (s.err = true ∧ w ≠ 0x00000004#32) := fun h => h.2 (he h.1)
  simp only [commandWrite, hb, Bool.false_eq_true, if_false, this, hd]

theorem commandWrite_illegal {s : State} {w : Word} {e : Reject} (hb : s.busy = false) (he : s.err = false)
    (hd : decode (.cmd w) = .error e) : commandWrite w s = .next (s.enterError .illegalCmd) := by
  simp [commandWrite, hb, he, hd, State.raise]

/-! ### The engine's turn -/

theorem engineStep_idle {s : State} (h : s.busy = false) : engineStep s = .next s := by
  simp [engineStep, h]

theorem engineStep_busy {s : State} {i : Instr} (hb : s.busy = true) (hd : decode (.uop s.nextUop) = .ok i) :
    engineStep s = mapNext State.complete (exec i s) := by
  simp [engineStep, hb, hd]

/-- The turns of an idle engine change nothing. -/
theorem engineRun_idle {s : State} (h : s.busy = false) (n : Nat) : engineRun n s = .next s := by
  induction n with
  | zero => rfl
  | succ n ih => simp only [engineRun, engineStep_idle h, ih]

theorem engineRun_succ {s t : State} (n : Nat) (h : engineStep s = .next t) :
    engineRun (n + 1) s = engineRun n t := by
  simp only [engineRun, h]

/-- One more step of a run of the machine. -/
theorem run_succ {M : Host.Core} {s t : M.State} (k : Nat) (h : M.step s = .next t) : M.run (k + 1) s = M.run k t := by
  simp only [Host.Core.run, h]

end Sys2Proof.Machine
end

