-- ==== Sys2Proof/Laws/Invariant.lean ====
section
/-! SUPPORT. Each named operation keeps the invariant `State.Inv`. -/

namespace Sys2Proof.Machine

/-- A host read changes nothing the invariant speaks of (R112). -/
theorem State.Inv.hostRead {s : State} (h : s.Inv) (r : Reg) : (s.hostRead r).Inv :=
  ⟨h.params, h.ptr, h.len, h.busy, h.err, h.ecodeZero, h.ecodeMax, h.remaining, h.inRange, h.hwPath, h.mem⟩

/-- The events still to come are not in the invariant. -/
theorem State.Inv.inbox {s : State} (h : s.Inv) (l : List Event) : ({ s with inbox := l } : State).Inv :=
  ⟨h.params, h.ptr, h.len, h.busy, h.err, h.ecodeZero, h.ecodeMax, h.remaining, h.inRange, h.hwPath, h.mem⟩

/-- The record of the buffer port is not in the invariant. -/
theorem State.Inv.accesses {s : State} (h : s.Inv) (l : List Access) : ({ s with accesses := l } : State).Inv :=
  ⟨h.params, h.ptr, h.len, h.busy, h.err, h.ecodeZero, h.ecodeMax, h.remaining, h.inRange, h.hwPath, h.mem⟩

/-- Recording a read is not in the invariant. -/
theorem State.Inv.noteRead {s : State} (h : s.Inv) (a n : Nat) : (s.noteRead a n).Inv :=
  ⟨h.params, h.ptr, h.len, h.busy, h.err, h.ecodeZero, h.ecodeMax, h.remaining, h.inRange, h.hwPath, h.mem⟩

/-- Every 32-bit value of `CRC` is legal (R21). -/
theorem State.Inv.setCrc {s : State} (h : s.Inv) (v : Word) : (s.setCrc v).Inv :=
  ⟨h.params, h.ptr, h.len, h.busy, h.err, h.ecodeZero, h.ecodeMax, h.remaining, h.inRange, h.hwPath, h.mem⟩

/-- A write of `PTR` to an idle engine (R22, R113). -/
theorem State.Inv.setPtr {s : State} (h : s.Inv) (hb : s.busy = false) (v : Nat) : (s.setPtr v).Inv :=
  ⟨h.params, Nat.mod_lt _ (Params.space_pos _), h.len, h.busy, h.err, h.ecodeZero, h.ecodeMax, by simp [hb],
    by simp [hb], by simp [hb], h.mem⟩

/-- A write of `LEN` to an idle engine (R23, R113). -/
theorem State.Inv.setLen {s : State} (h : s.Inv) (hb : s.busy = false) (v : Nat) : (s.setLen v).Inv :=
  ⟨h.params, h.ptr, Nat.mod_lt _ (Params.space_pos _), h.busy, h.err, h.ecodeZero, h.ecodeMax, by simp [hb],
    by simp [hb], by simp [hb], h.mem⟩

/-- Entry into the error state (R176). -/
theorem State.Inv.enterError {s : State} (h : s.Inv) (e : ErrCause) : (s.enterError e).Inv :=
  ⟨h.params, h.ptr, h.len, by simp, by simp, by cases e <;> simp [ErrCause.code], by cases e <;> simp [ErrCause.code],
    by simp, by simp, by simp, h.mem⟩

/-- Three free values, each cut to its width (R175). -/
theorem State.Inv.clobber {s : State} (h : s.Inv) (hb : s.busy = false) : s.clobber.Inv :=
  ⟨h.params, Nat.mod_lt _ (Params.space_pos _), Nat.mod_lt _ (Params.space_pos _), h.busy, h.err, h.ecodeZero,
    h.ecodeMax, by simp [hb], by simp [hb], by simp [hb], h.mem⟩

/-- `raise E` for each cause (R176). -/
theorem State.Inv.raise {s : State} (h : s.Inv) (e : ErrCause) : (s.raise e).Inv := by
  cases e
  · exact h.enterError _
  · exact h.enterError _
  · exact h.enterError _
  · exact (h.enterError _).clobber rfl

/-- `CLRERR` (R148). -/
theorem State.Inv.leaveError {s : State} (h : s.Inv) : s.leaveError.Inv :=
  ⟨h.params, h.ptr, h.len, fun hb => ⟨rfl, (h.busy hb).2⟩, by simp, by simp, by simp, h.remaining, h.inRange,
    h.hwPath, h.mem⟩

/-- Reset (R200). -/
theorem State.Inv.resetEvent {s : State} (h : s.Inv) : s.resetEvent.Inv :=
  ⟨h.params, Nat.mod_lt _ (Params.space_pos _), Nat.mod_lt _ (Params.space_pos _), by simp, by simp, by simp,
    by simp, by simp, by simp, by simp, h.mem⟩

/-- Another agent's change of one existing byte keeps the canonical form. -/
theorem State.Inv.poke {s : State} (h : s.Inv) {a : Nat} (b : Option Byte) (ha : a < s.params.space) :
    (s.poke a b).Inv :=
  ⟨h.params, h.ptr, h.len, h.busy, h.err, h.ecodeZero, h.ecodeMax, h.remaining, h.inRange, h.hwPath,
    Memory.poke_wf b h.mem ha⟩

/-- An `UPDATE` past its checks (R141, R144). -/
theorem State.Inv.acceptInRange {s : State} (h : s.Inv) (hb : s.busy = false) (he : s.err = false) (p : Path)
    (hp : p = .hw → s.params.hwBuild = true ∧ s.params.hwcap = true) : (s.acceptInRange p).Inv := by
  rcases s.acceptInRange_cases p with ⟨-, h'⟩ | ⟨_, _, h'⟩ | ⟨h1, h2, h'⟩ <;> rw [h']
  · exact h.enterError _
  · exact ⟨h.params, h.ptr, h.len, by simp [hb], by simp [he], h.ecodeZero, h.ecodeMax, by simp [hb], by simp [hb],
      by simp [hb], h.mem⟩
  · exact ⟨h.params, h.ptr, h.len, by simp [he], by simp, h.ecodeZero, h.ecodeMax,
      fun _ => Nat.one_le_iff_ne_zero.mpr h2, fun _ => h1, fun _ => hp, h.mem⟩

/-- A micro-operation that found its bytes, with the completion test (R143, R146, R147). -/
theorem State.Inv.retire_complete {s : State} (h : s.Inv) (hb : s.busy = true) (v : Word) (n : Nat) (hn : n ≤ s.len) :
    (s.retire v n).complete.Inv := by
  rw [State.retire_eq hn h.len]
  have hr := h.inRange hb
  have hl := h.len
  rcases State.complete_cases { s with crc := v, ptr := (s.ptr + n) % s.params.space, len := s.len - n } with ⟨_,
    h0, h'⟩ | ⟨h0, h'⟩ <;> rw [h']
  · exact ⟨h.params, Nat.mod_lt _ (Params.space_pos _), by simp only; omega, by simp, by simp [(h.busy hb).1],
      h.ecodeZero, h.ecodeMax, by simp, by simp, by simp, h.mem⟩
  · have h0 : s.len - n ≠ 0 := h0.resolve_left (by simp [hb])
    have hm : (s.ptr + n) % s.params.space = s.ptr + n := Nat.mod_eq_of_lt (by omega)
    exact ⟨h.params, Nat.mod_lt _ (Params.space_pos _), by simp only; omega, h.busy, h.err, h.ecodeZero,
    h.ecodeMax, fun _ => by simp only; omega,
      fun _ => by simp only [hm]; show s.ptr + n + (s.len - n) ≤ s.params.space; omega, h.hwPath, h.mem⟩

/-- `raise` has cleared `BUSY`, so the completion test that follows does nothing (R10, R147). -/
theorem State.complete_raise (s : State) (e : ErrCause) : (s.raise e).complete = s.raise e := by
  rcases (s.raise e).complete_cases with ⟨h, -⟩ | ⟨-, h⟩
  · simp at h
  · exact h

end Sys2Proof.Machine
end

