-- ==== Sys2Proof/Laws/PerInstr.lean ====
section
/-! SUPPORT. Statements made per instruction: the encoding round trip of each constructor. -/

namespace Sys2Proof.Laws.Roundtrip

/-- R83, R85: the code word of the instruction has legal fields and decodes to the instruction, as a word and as
bytes. -/
def Statement (i : Instr) : Prop :=
  (encode i).wf = true ∧ decode (encode i) = .ok i ∧ decodeBytes (encodeBytes i) = .ok i

theorem nop : Statement .nop := by unfold Statement; exact ⟨rfl, rfl, rfl⟩
theorem updateSw : Statement .updateSw := by unfold Statement; exact ⟨rfl, rfl, rfl⟩
theorem updateHw : Statement .updateHw := by unfold Statement; exact ⟨rfl, rfl, rfl⟩
theorem clrerr : Statement .clrerr := by unfold Statement; exact ⟨rfl, rfl, rfl⟩
theorem tbyte : Statement .tbyte := by unfold Statement; exact ⟨rfl, rfl, rfl⟩
theorem slice8 : Statement .slice8 := by unfold Statement; exact ⟨rfl, rfl, rfl⟩
theorem crc32B : Statement .crc32B := by unfold Statement; exact ⟨rfl, rfl, rfl⟩
theorem crc32H : Statement .crc32H := by unfold Statement; exact ⟨rfl, rfl, rfl⟩
theorem crc32W : Statement .crc32W := by unfold Statement; exact ⟨rfl, rfl, rfl⟩

end Sys2Proof.Laws.Roundtrip
end

