-- ==== Sys2Proof/Tests/Slice0.lean ====
section
/-! SUPPORT. The model's own tests. Expected values come from the spec: the encodings of 30_encoding.md, the vectors
of 95_test_vectors.md (their ids in the names), the rules named. The witnesses at the end show, for every
obligation with hypotheses, states and operands that meet them. -/

namespace Sys2Proof.Tests

open Sys2Proof.Machine

/-! ### Helpers -/

/-- A memory with the bytes `bs` from address `a` on. -/
def memAt : Nat → List Byte → Memory
  | _, [] => []
  | a, b :: bs => (a, b) :: memAt (a + 1) bs

/-- The reset state with the datapath registers and the memory given. -/
def st (c : Word) (p l : Nat) (m : Memory) : State := { State.reset with crc := c, ptr := p, len := l, mem := m }

/-- The state on an instance with the capabilities given. -/
def caps (build cap : Bool) (s : State) : State := { s with params := { s.params with hwBuild := build, hwcap := cap } }

/-- The state with an `UPDATE` running on a path. -/
def running (p : Path) (s : State) : State := { s with busy := true, path := p }

/-- The state in the error state with cause 3. -/
def failed (s : State) : State := { s with err := true, ecode := 3#3 }

/-- The state with events waiting. -/
def expecting (es : List Event) (s : State) : State := { s with inbox := es }

/-- The outcome is a next state that satisfies `p`. -/
def nextHas (o : Host.Outcome State Fault Refusal) (p : State → Bool) : Bool :=
  match o with
  | .next t => p t
  | .fault _ => false
  | .refused _ => false

/-- Registers and status word. -/
def shows (c : Word) (p l : Nat) (status : Word) (t : State) : Bool :=
  t.crc == c && t.ptr == p && t.len == l && t.statusWord == status

/-- ASCII "123456789". -/
def digits : List Byte := [0x31#8, 0x32#8, 0x33#8, 0x34#8, 0x35#8, 0x36#8, 0x37#8, 0x38#8, 0x39#8]

/-- The buffer of vector K3, seeded, idle. -/
def k3 : State := st 0xFFFFFFFF#32 0x1000 9 (memAt 0x1000 digits)

/-! ### WellFormed: each check refuses an ill-formed term -/

theorem test_params_wf : Config.instance0.wf = true := by decide
theorem test_params_aw_too_small : ({ Config.instance0 with aw := 2 } : Params).wf = false := by decide
theorem test_params_cap_without_build :
    ({ Config.instance0 with hwBuild := false } : Params).wf = false := by decide
theorem test_cmd_use_hw_without_start : (CodeWord.cmd 0x00000002#32).wf = false := by decide
theorem test_cmd_clr_with_start : (CodeWord.cmd 0x00000005#32).wf = false := by decide
theorem test_cmd_clr_with_use_hw : (CodeWord.cmd 0x00000006#32).wf = false := by decide
theorem test_cmd_reserved_low_bit : (CodeWord.cmd 0x00000008#32).wf = false := by decide
theorem test_cmd_reserved_high_bit : (CodeWord.cmd 0x80000001#32).wf = false := by decide
theorem test_uop_001_reserved : (CodeWord.uop 0b001#3).wf = false := by decide
theorem test_uop_010_reserved : (CodeWord.uop 0b010#3).wf = false := by decide
theorem test_uop_111_reserved : (CodeWord.uop 0b111#3).wf = false := by decide
theorem test_wrapper_absent :
    Instr.wf { Config.instance0 with hwBuild := false, hwcap := false } .crc32B = false ∧
    Instr.wf { Config.instance0 with hwBuild := false, hwcap := false } .crc32H = false ∧
    Instr.wf { Config.instance0 with hwBuild := false, hwcap := false } .crc32W = false := by decide
theorem test_poke_outside : (Event.poke 0x10000 none).wf Config.instance0 = false := by decide
theorem test_poke_last : (Event.poke 0xFFFF none).wf Config.instance0 = true := by decide

/-! ### Decode: every constructor's word, written out from R83 and R85 -/

theorem test_decode_nop : decode (.cmd 0b00000000000000000000000000000000#32) = .ok .nop := by decide
theorem test_decode_updateSw : decode (.cmd 0b00000000000000000000000000000001#32) = .ok .updateSw := by decide
theorem test_decode_updateHw : decode (.cmd 0b00000000000000000000000000000011#32) = .ok .updateHw := by decide
theorem test_decode_clrerr : decode (.cmd 0b00000000000000000000000000000100#32) = .ok .clrerr := by decide
theorem test_decode_tbyte : decode (.uop 0b000#3) = .ok .tbyte := by decide
theorem test_decode_slice8 : decode (.uop 0b011#3) = .ok .slice8 := by decide
theorem test_decode_crc32B : decode (.uop 0b100#3) = .ok .crc32B := by decide
theorem test_decode_crc32H : decode (.uop 0b101#3) = .ok .crc32H := by decide
theorem test_decode_crc32W : decode (.uop 0b110#3) = .ok .crc32W := by decide
/-- ER2: not taken as `UPDATE.SW`. -/
theorem test_decode_all_bits : decode (.cmd 0x80000001#32) = .error (.illegalCommand 0x80000001#32) := by decide
theorem test_decode_reserved_uop : decode (.uop 0b111#3) = .error (.reservedUop 0b111#3) := by decide
theorem test_decode_bytes_length : decodeBytes [0x00#8, 0x00#8] = .error (.badLength 2) := by decide
theorem test_decode_bytes_high_uop_bit : decodeBytes [0x08#8] = .error (.badUopByte 0x08#8) := by decide
/-- `UPDATE.HW` as the rows of the opcode table are numbered, and the same with a bit above its 32. -/
theorem test_table_word : decodeTableWord 32 3 = some .updateHw ∧ decodeTableWord 32 0x100000003 = none := by decide
/-- Fields of R81 and R82 in the words that carry them. -/
theorem test_fields : cmdStart 3#32 = true ∧ cmdUseHw 3#32 = true ∧ cmdClr 4#32 = true ∧
    uopUnit 0b110#3 = true ∧ uopSize 0b110#3 = 2 ∧ uopBytes 0b011#3 = 8 := by decide

/-! ### Memory -/

theorem test_reset_memory_wf : State.reset.mem.wf State.reset.params := by decide
theorem test_store_sorts : Memory.store [(2, 0xAA#8)] 1 0xBB#8 = [(1, 0xBB#8), (2, 0xAA#8)] := by decide
/-- R52: the operand of P2's misaligned read. -/
theorem test_read4_little_endian :
    (st 0#32 0 0 (memAt 0x2001 [0x41#8, 0x46#8, 0x44#8, 0x20#8])).memRead4 0x2001 = some 0x20444641#32 := by decide
/-- R50, R60: no byte at `2^AW`. -/
theorem test_read_past_the_top : (st 0#32 0 0 (memAt 0xFFFF [0x41#8])).memRead2 0xFFFF = none := by decide

/-! ### One step of each instruction -/

/-- R140's example. -/
theorem test_nop : nextHas (step (expecting [.write .cmd 0] { st 0x1CF96D7C#32 0 0 [] with done := true }))
    (shows 0x1CF96D7C#32 0 0 0xC2#32) = true := by decide
/-- P1 line 5. -/
theorem test_updateSw_accepted : nextHas (step (expecting [.write .cmd 1] k3))
    (fun t => shows 0xFFFFFFFF#32 0x1000 9 0xC1#32 t && t.path == .sw) = true := by decide
/-- ER7. -/
theorem test_updateSw_range : nextHas (step (expecting [.write .cmd 1] (st 5#32 0xFFF8 9 [])))
    (shows 5#32 0xFFF8 9 0xDC#32) = true := by decide
/-- P1 line 12. -/
theorem test_updateHw_accepted : nextHas (step (expecting [.write .cmd 3] { k3 with done := true }))
    (fun t => shows 0xFFFFFFFF#32 0x1000 9 0xC1#32 t && t.path == .hw) = true := by decide
/-- ER9: `NoHw` before `Range`. -/
theorem test_updateHw_priority : nextHas (step (expecting [.write .cmd 3] (caps true false (st 5#32 0xFFF8 9 []))))
    (shows 5#32 0xFFF8 9 0x94#32) = true := by decide
/-- ER15, its first line. -/
theorem test_clrerr : nextHas (step (expecting [.write .cmd 4] (failed (st 5#32 0xFFF8 9 []))))
    (shows 5#32 0xFFF8 9 0xC0#32) = true := by decide
/-- ER13: a word that is no command is discarded in the error state. -/
theorem test_error_state_discards : nextHas (step (expecting [.write .cmd 0xFFFFFFFF] (failed (st 5#32 0xFFF8 9 []))))
    (shows 5#32 0xFFF8 9 0xDC#32) = true := by decide
/-- ER1. -/
theorem test_illegal_command : nextHas (step (expecting [.write .cmd 2] { st 0x1CF96D7C#32 0x1009 0 [] with done := true }))
    (shows 0x1CF96D7C#32 0x1009 0 0xCC#32) = true := by decide
/-- TB8: the logical shift and the low byte of the index. -/
theorem test_tbyte : nextHas (exec .tbyte (running .sw (st 0x12345678#32 0x1003 9 [(0x1003, 0xAB#8)])))
    (shows 0xC0912609#32 0x1004 8 0xC1#32) = true := by decide +kernel
/-- P1, the last step: completion in the same step. -/
theorem test_tbyte_completes : nextHas (step (running .sw (st 0x9F787F65#32 0x1008 1 [(0x1008, 0x39#8)])))
    (shows 0x1CF96D7C#32 0x1009 0 0xC2#32) = true := by decide +kernel
/-- SL8, and P1's first step. -/
theorem test_slice8 : nextHas (step (running .sw k3)) (shows 0x9F787F65#32 0x1008 1 0xC1#32) = true := by decide +kernel
/-- ER8: the buffer ends at the top, `PTR` ends at 0. -/
theorem test_slice8_top : nextHas (step (running .sw (st 0xFFFFFFFF#32 0xFFF8 8 (memAt 0xFFF8 (digits.take 8)))))
    (shows 0x9F787F65#32 0 0 0xC2#32) = true := by decide +kernel
/-- TB7, as a step of the wrapper. -/
theorem test_crc32B : nextHas (step (running .hw (st 0xFFFFFFFF#32 0x1000 1 (memAt 0x1000 digits))))
    (shows 0x6F0A661C#32 0x1001 0 0xC2#32) = true := by decide +kernel
/-- H2: the byte at the lower address is the low one. -/
theorem test_crc32H : nextHas (step (running .hw (st 0#32 0x1001 3 [(0x1001, 0x01#8), (0x1002, 0x00#8)])))
    (shows 0x13A29877#32 0x1003 1 0xC1#32) = true := by decide +kernel
/-- P2, run B's first step: a misaligned word. -/
theorem test_crc32W : nextHas (step (running .hw (st 0xFFFFFFFF#32 0x2001 7
      (memAt 0x2001 [0x41#8, 0x46#8, 0x44#8, 0x20#8, 0x43#8, 0x52#8, 0x43#8]))))
    (shows 0x468F1EAF#32 0x2005 3 0xC1#32) = true := by decide +kernel
/-- ER10: the second word's read fails; one draw, and address 0x1008 is never read. -/
theorem test_bus_error : nextHas (step (running .sw (st 0xFFFFFFFF#32 0x1000 9 (memAt 0x1000 (digits.take 4)))))
    (fun t => t.statusWord == 0xE4#32 && t.accesses == [⟨0x1000, 4⟩, ⟨0x1004, 4⟩]) = true := by decide

/-! ### Registers, reset -/

/-- RG5. -/
theorem test_ptr_truncated : nextHas (step (expecting [.write .ptr 0x12345] k3)) (fun t => t.ptr == 0x2345) = true := by
  decide
/-- HZ1. -/
theorem test_reset_status : State.reset.statusWord = 0xC0#32 := by decide
/-- HZ6: reset while busy. -/
theorem test_reset_event : nextHas (step (expecting [.reset] (running .sw k3))) (fun t => t.statusWord == 0xC0#32) = true := by
  decide

/-! ### The instruction placed by `withFetchWord` is the one that runs -/

/-- A command placed in the reset state is what the next step runs. -/
theorem test_fetch_command : nextHas (step (State.reset.withFetchWord 32 1)) (fun t => t.done && t.path == .sw) = true := by
  decide
/-- A micro-operation placed in a state with a readable buffer runs: H2's operand. -/
theorem test_fetch_uop : nextHas (step ((st 0#32 0x1001 0 [(0x1001, 0x01#8), (0x1002, 0x00#8)]).withFetchWord 8 5))
    (shows 0x13A29877#32 0x1003 0 0xC2#32) = true := by decide +kernel

/-! ### Witnesses: the hypotheses of the obligations can be met -/

theorem inv_reset : State.reset.Inv := by constructor <;> decide
theorem inv_k3 : k3.Inv := by constructor <;> decide
theorem inv_k3_sw : (running .sw k3).Inv := by constructor <;> decide
theorem inv_k3_hw : (running .hw k3).Inv := by constructor <;> decide
theorem inv_failed : (failed k3).Inv := by constructor <;> decide
theorem inv_done : ({ k3 with done := true } : State).Inv := by constructor <;> decide
theorem ready_k3 : k3.ready := by decide
theorem holds_k3 : k3.holds 0x1000 digits := by decide

theorem witness_CommandMapMatchesAllBits :
    (2#32 : Word) ≠ 0x00000000#32 ∧ (2#32 : Word) ≠ 0x00000001#32 ∧ (2#32 : Word) ≠ 0x00000003#32 ∧
    (2#32 : Word) ≠ 0x00000004#32 := by decide
theorem witness_UopMapWithSizes : ∃ u : BitVec 3, u ∈ [0b001#3, 0b010#3, 0b111#3] := ⟨0b111#3, by decide⟩
/-- The entry at both ends of the range of `k`; and eight tables of zeros, which differ from `T[0]` at index 1. -/
theorem witness_TableEntryIsFoldOfZeroPaddedByte :
    (0 ≤ 7 ∧ 7 ≤ 7) ∧ ∃ T : Nat → Byte → Word, (∀ m ≤ 7, T m 0x00#8 = 0x00000000#32) ∧ T 0 0x01#8 ≠ table 0 0x01#8 :=
  ⟨by decide, fun _ _ => 0#32, by decide, by decide⟩
theorem witness_ZeroFoldIteratedByLookups : (1 ≤ 1 ∧ 1 ≤ 4) ∧ (1 ≤ 4 ∧ 4 ≤ 4) := by decide
theorem witness_TableIntegrity :
    byteOf (table 0 0xFF#8) 3 = byteOf (table 0 0xFF#8) 3 ∧ 0 ∈ List.range 8 ∧ 7 ∈ List.range 8 := by decide
theorem witness_WrapperFoldsBytesInAddressOrder :
    k3.memRead1 0x1008 = some 0x39#8 ∧ k3.memRead2 0x1007 = some 0x3938#16 ∧
    k3.memRead4 0x1005 = some 0x39383736#32 := by decide
theorem witness_NoTwoTablesCanBeExchanged : 0 ∈ List.range 8 ∧ 7 ∈ List.range 8 := by decide
theorem witness_TbyteFoldsOneByte :
    k3.memRead1 k3.ptr = some 0x31#8 ∧ 1 ≤ k3.len ∧ k3.len < k3.params.space := by decide
/-- The last byte of a buffer that ends at the top of the space. -/
theorem witness_TbyteFoldsOneByte_top : let s := st 0#32 0xFFFF 1 [(0xFFFF, 0x31#8)]
    s.memRead1 s.ptr = some 0x31#8 ∧ 1 ≤ s.len ∧ s.len < s.params.space := by decide
theorem witness_Slice8FoldsEightBytes :
    k3.memRead4 k3.ptr = some 0x34333231#32 ∧ k3.memRead4 (k3.ptr + 4) = some 0x38373635#32 ∧ 8 ≤ k3.len ∧
    k3.len < k3.params.space := by decide
theorem witness_WrapperFoldsItsOperand :
    k3.params.hwBuild = true ∧ k3.params.hwcap = true ∧ k3.len < k3.params.space ∧
    (k3.memRead1 k3.ptr = some 0x31#8 ∧ 1 ≤ k3.len) ∧ (k3.memRead2 k3.ptr = some 0x3231#16 ∧ 2 ≤ k3.len) ∧
    (k3.memRead4 k3.ptr = some 0x34333231#32 ∧ 4 ≤ k3.len) := by decide
/-- Each of the four forms, at the last address, where only the 1-byte read is served, and in an empty memory. -/
theorem witness_UnservedReadRaisesBusError :
    (Instr.tbyte, 1) ∈ [(Instr.tbyte, 1), (Instr.crc32B, 1), (Instr.crc32H, 2), (Instr.crc32W, 4)] ∧
    (Instr.crc32H, 2) ∈ [(Instr.tbyte, 1), (Instr.crc32B, 1), (Instr.crc32H, 2), (Instr.crc32W, 4)] ∧
    (State.reset.params.hwBuild = true ∧ State.reset.params.hwcap = true) ∧
    State.reset.readBytes State.reset.ptr 1 = none ∧
    (st 0#32 0xFFFF 1 [(0xFFFF, 0x31#8)]).readBytes 0xFFFF 2 = none ∧
    (st 0#32 0xFFFF 1 [(0xFFFF, 0x31#8)]).readBytes 0xFFFF 4 = none := by decide
theorem witness_Slice8BusErrorStopsAtTheFailingRead :
    State.reset.memRead4 State.reset.ptr = none ∧
    (let s := st 0#32 0x1000 9 (memAt 0x1000 (digits.take 4))
     s.memRead4 s.ptr = some 0x34333231#32 ∧ s.memRead4 (s.ptr + 4) = none) := by decide
theorem witness_AbsentWrapperRunsNothing :
    Instr.crc32B ∈ [Instr.crc32B, Instr.crc32H, Instr.crc32W] ∧ (caps false false k3).params.hwBuild = false ∧
    (caps true false k3).params.hwcap = false := by decide
theorem witness_NopChangesNothing : let s := expecting [.write .cmd 0x00000000, .wait] k3
    s.ready ∧ s.inbox = [.write .cmd 0x00000000, .wait] := by decide
/-- The three clauses: the sum one past the top, the sum at the top with no byte, the sum at the top. -/
theorem witness_UpdateSwAcceptance :
    (let s := st 0#32 0xFFF8 9 []; s.busy = false ∧ s.params.space < s.ptr + s.len) ∧
    (let s := st 0#32 0xFFFF 0 []; s.busy = false ∧ s.ptr + s.len ≤ s.params.space ∧ s.len = 0) ∧
    (let s := st 0#32 0xFFF8 8 []; s.busy = false ∧ s.ptr + s.len ≤ s.params.space ∧ s.len ≠ 0) := by decide
theorem witness_UpdateHwAcceptance :
    (let s := caps true false k3; s.busy = false ∧ s.params.hwBuild = true ∧ s.params.hwcap = false) ∧
    (let s := caps false false k3; s.busy = false ∧ s.params.hwBuild = false) ∧
    (let s := st 0#32 0xFFF8 9 []
     s.busy = false ∧ s.params.hwBuild = true ∧ s.params.hwcap = true ∧ s.params.space < s.ptr + s.len) ∧
    (let s := st 0#32 0xFFFF 0 []
     s.params.hwBuild = true ∧ s.params.hwcap = true ∧ s.ptr + s.len ≤ s.params.space ∧ s.len = 0) ∧
    (let s := st 0#32 0xFFF8 8 []
     s.params.hwBuild = true ∧ s.params.hwcap = true ∧ s.ptr + s.len ≤ s.params.space ∧ s.len ≠ 0) := by decide
theorem witness_RangeIsTheIntegerSum :
    (let s := st 0#32 0xFFF8 9 []
     s.busy = false ∧ s.err = false ∧ s.mayUse true ∧ s.params.space < s.ptr + s.len) ∧
    (let s := st 0#32 0xFFF8 8 []
     s.busy = false ∧ s.err = false ∧ s.mayUse false ∧ s.ptr + s.len ≤ s.params.space) ∧
    (let s := st 0#32 0xFFFF 0 []; s.ptr < s.params.space ∧ s.len = 0) := by decide
theorem witness_ClrerrLeavesTheErrorState :
    (k3.err = false ∧ k3.ecode = 0#3) ∧
    (let s := expecting [.write .cmd 4] (failed k3)
     s.busy = false ∧ s.err = true ∧ s.inbox = [.write .cmd 4] ∧ BitVec.ofNat 32 4 = 0x00000004#32) ∧
    BitVec.ofNat 32 5 ≠ 0x00000004#32 := by decide
theorem witness_IllegalWordRaisesIllegalCmd : let v := 0x80000001#32
    let s := expecting [.write .cmd v.toNat] k3
    s.ready ∧ s.inbox = [.write .cmd v.toNat] ∧ v ≠ 0x00000000#32 ∧ v ≠ 0x00000001#32 ∧ v ≠ 0x00000003#32 ∧
      v ≠ 0x00000004#32 := by decide
/-- One state for each test of the rule, in its order: the first that applies decides. -/
theorem witness_CommandWritePriority :
    (let s := expecting [.write .cmd 2] (failed (running .sw k3)); s.busy = true ∧ s.inbox = [.write .cmd 2]) ∧
    (let s := expecting [.write .cmd 2] (failed k3); s.busy = false ∧ s.err = true ∧ s.inbox = [.write .cmd 2]) ∧
    (let s := expecting [.write .cmd 2] k3; s.busy = false ∧ s.err = false ∧ s.inbox = [.write .cmd 2]) ∧
    (let s := expecting [.write .cmd 3] (caps true false (st 0#32 0xFFF8 9 []))
     s.ready ∧ s.params.hwBuild = true ∧ s.params.hwcap = false ∧ s.params.space < s.ptr + s.len) ∧
    (let s := expecting [.write .cmd 1] (st 0#32 0xFFF8 9 []); s.ready ∧ s.params.space < s.ptr + s.len) ∧
    (let s := expecting [.write .cmd 1] (st 0#32 0xFFF8 8 []); s.ready ∧ ¬ s.params.space < s.ptr + s.len) := by decide
/-- On both paths, at the last address of the space. -/
theorem witness_ZeroLengthUpdateCompletesAtOnce :
    ∃ s : State, s.Inv ∧ s.ready ∧ s.mayUse true ∧ s.mayUse false ∧ s.len = 0 :=
  ⟨st 0#32 0xFFFF 0 [], by constructor <;> decide, by decide, by decide, by decide, by decide⟩
theorem witness_IdleRegisterRead : let s := expecting [.read .status] (failed k3)
    s.busy = false ∧ s.inbox = [.read .status] := by decide
/-- Every register number, on a busy engine. -/
theorem witness_BusyRegisterRead :
    ∀ r ∈ [Reg.crc, .ptr, .len, .cmd, .status, .reserved5, .reserved6, .reserved7],
      (expecting [.read r] (running .sw k3)).busy = true ∧
      (expecting [.read r] (running .sw k3)).inbox = [.read r] := by decide
theorem witness_DetectYieldsTheCapability :
    (expecting seqDetect (running .sw k3)).inbox = seqDetect ++ [] ∧
    (caps false false k3).params.wf = true ∧ (caps false false k3).params.hwBuild = false := by decide
theorem witness_IdleRegisterWrite : let s := expecting [.write .ptr 0x10000] (failed k3)
    s.busy = false ∧ Reg.ptr ≠ Reg.cmd ∧ s.inbox = [.write .ptr 0x10000] := by decide
theorem witness_BusyWritesAreDiscarded : let s := expecting [.write .cmd 4] (running .hw k3)
    s.busy = true ∧ s.inbox = [.write .cmd 4] := by decide
theorem witness_ResetEventClearsTheFlags : (expecting [.reset] (running .sw k3)).inbox = [.reset] := by decide
theorem witness_StepRunsTheCommand : let s := expecting [.write .cmd 4] (failed k3)
    s.busy = false ∧ (s.err = true → BitVec.ofNat 32 4 = 0x00000004#32) ∧ s.inbox = [.write .cmd 4] ∧
      decode (.cmd (BitVec.ofNat 32 4)) = .ok .clrerr := by decide
theorem witness_StepRunsTheMicroOperation :
    (let s := running .sw k3; s.busy = true ∧ s.inbox = [] ∧ decode (.uop s.nextUop) = .ok .slice8) ∧
    (let s := expecting [.engine, .wait] (running .hw k3)
     s.busy = true ∧ s.inbox = [.engine, .wait] ∧ decode (.uop s.nextUop) = .ok .crc32W) := by decide
theorem witness_EveryStepKeepsTheInvariant : ∃ s t : State, s.Inv ∧ step s = .next t := ⟨_, _, inv_k3_sw, rfl⟩
theorem witness_ResetMeetsTheInvariant :
    Config.instance0.wf = true ∧ ({ Config.instance0 with aw := 3 } : Params).wf = true := by decide
theorem witness_InvariantStatesStepSafely :
    ∃ s : State, s.Inv ∧ s.inbox = [] ∧ (∀ e rest, s.inbox = e :: rest → e.wf s.params = true) :=
  ⟨_, inv_k3_sw, rfl, fun _ _ h => nomatch h⟩
theorem witness_InvariantStatesStepSafely_poke :
    ∃ s : State, s.Inv ∧ s.inbox = [.poke 0x10000 none] ∧ s.params.space ≤ 0x10000 :=
  ⟨expecting [.poke 0x10000 none] k3, by constructor <;> decide, rfl, by decide⟩
theorem witness_OnlyPokesWriteMemory :
    (∃ s t : State, step s = .next t ∧ ∀ a b rest, s.inbox ≠ .poke a b :: rest) ∧
    (∃ s t : State, step s = .next t ∧ s.inbox = [.poke 0xFFFF none]) :=
  ⟨⟨running .sw k3, _, rfl, fun _ _ _ h => nomatch h⟩, ⟨expecting [.poke 0xFFFF none] k3, _, rfl, rfl⟩⟩
theorem witness_CrcChangesOnlyByTheseEvents :
    (∃ s t : State, step s = .next t ∧ t.crc ≠ s.crc ∧ s.busy = false) ∧
    (∃ s t : State, step s = .next t ∧ t.crc ≠ s.crc ∧ s.busy = true) :=
  ⟨⟨expecting [.write .crc 0] k3, _, rfl, by decide, rfl⟩, ⟨running .sw k3, _, rfl, by decide +kernel, rfl⟩⟩
theorem witness_ErrorStateEndsOnlyByClrerrOrReset :
    (∃ s t : State, s.Inv ∧ s.err = true ∧ step s = .next t ∧ t.err = false) ∧
    (∃ s t : State, s.Inv ∧ s.err = true ∧ step s = .next t ∧ t.err = true) :=
  ⟨⟨expecting [.write .cmd 4] (failed k3), _, inv_failed.inbox _, rfl, rfl, rfl⟩, ⟨failed k3, _, inv_failed, rfl, rfl, rfl⟩⟩
theorem witness_DoneStaysUntilNextUpdateErrorOrReset :
    (∃ s t : State, s.Inv ∧ s.done = true ∧ step s = .next t ∧ t.done = false ∧ t.busy = true) ∧
    (∃ s t : State, s.Inv ∧ s.done = true ∧ step s = .next t ∧ t.done = false ∧ t.err = true) :=
  ⟨⟨expecting [.write .cmd 1] { k3 with done := true }, _, inv_done.inbox _, rfl, rfl, rfl, rfl⟩,
   ⟨expecting [.write .cmd 2] { k3 with done := true }, _, inv_done.inbox _, rfl, rfl, rfl, rfl⟩⟩
theorem witness_SoftwarePathStepSequence :
    ∃ (s : State) (bs : List Byte), s.Inv ∧ s.busy = true ∧ s.path = .sw ∧ s.holds s.ptr bs ∧ bs.length = s.len :=
  ⟨running .sw k3, digits, inv_k3_sw, rfl, rfl, by decide, rfl⟩
theorem witness_HardwarePathStepSequence :
    ∃ (s : State) (bs : List Byte), s.Inv ∧ s.busy = true ∧ s.path = .hw ∧ s.holds s.ptr bs ∧ bs.length = s.len :=
  ⟨running .hw k3, digits, inv_k3_hw, rfl, rfl, by decide, rfl⟩
theorem witness_EveryBufferByteIsReadOnceInOrder :
    ∃ (s : State) (bs : List Byte), s.Inv ∧ s.busy = true ∧ s.holds s.ptr bs ∧ bs.length = s.len :=
  ⟨running .hw k3, digits, inv_k3_hw, rfl, by decide, rfl⟩
theorem witness_UpdateComputesTheFold :
    k3.Inv ∧ k3.ready ∧ k3.mayUse true ∧ k3.mayUse false ∧ k3.ptr + k3.len ≤ k3.params.space ∧
      k3.holds k3.ptr digits ∧ digits.length = k3.len :=
  ⟨inv_k3, by decide, by decide, by decide, by decide, by decide, rfl⟩
theorem witness_EachTurnKeepsTheFoldOfTheRest :
    ∃ (s t : State) (bs : List Byte), s.Inv ∧ s.busy = true ∧ s.holds s.ptr bs ∧ bs.length = s.len ∧
      engineStep s = .next t :=
  ⟨running .sw k3, _, digits, inv_k3_sw, rfl, by decide, rfl, rfl⟩
/-- The same bytes at another alignment, on an instance without the wrapper. -/
theorem witness_ResultIsAlignmentIndependent :
    ∃ s s' : State,
      (s.Inv ∧ s.ready ∧ s.mayUse true ∧ s.ptr + s.len ≤ s.params.space ∧ s.holds s.ptr digits ∧
        digits.length = s.len) ∧
      (s'.Inv ∧ s'.ready ∧ s'.mayUse false ∧ s'.ptr + s'.len ≤ s'.params.space ∧ s'.holds s'.ptr digits ∧
        digits.length = s'.len) ∧ s.crc = s'.crc :=
  ⟨k3, caps false false (st 0xFFFFFFFF#32 0xFFF7 9 (memAt 0xFFF7 digits)),
   ⟨inv_k3, by decide, by decide, by decide, by decide, rfl⟩,
   ⟨by constructor <;> decide, by decide, by decide, by decide, by decide, rfl⟩, rfl⟩
theorem witness_PathsAreEquivalent :
    k3.Inv ∧ k3.ready ∧ k3.mayUse true ∧ k3.ptr + k3.len ≤ k3.params.space ∧ k3.holds k3.ptr digits ∧
      digits.length = k3.len :=
  ⟨inv_k3, by decide, by decide, by decide, by decide, rfl⟩
/-- Three pieces, one of them empty, on both paths. -/
theorem witness_ChunkingDoesNotMatter :
    let pieces := [(digits.take 7, true), ([], true), (digits.drop 7, false)]
    k3.Inv ∧ k3.ready ∧ (∀ x ∈ pieces, k3.mayUse x.2 ∧ x.1.length < k3.params.space) ∧
      k3.ptr + (pieces.map Prod.fst).flatten.length ≤ k3.params.space ∧
      k3.holds k3.ptr (pieces.map Prod.fst).flatten :=
  ⟨inv_k3, by decide, by decide, by decide, by decide⟩
/-- A readable buffer and one that no address of answers. -/
theorem witness_UpdateEndsWithinLenSteps :
    ((running .sw k3).Inv ∧ (running .sw k3).busy = true) ∧
    (∃ s : State, s.Inv ∧ s.busy = true ∧ s.readByte s.ptr = none) :=
  ⟨⟨inv_k3_sw, rfl⟩, ⟨running .sw (st 0#32 0xFFFF 1 []), by constructor <;> decide, rfl, by decide⟩⟩
theorem witness_SynchronousCallReturnsTheFold :
    ∃ s : State, s.Inv ∧ s.ready ∧ s.mayUse true ∧ 0x1000 < s.params.space ∧ 9 < s.params.space ∧
      0x1000 + 9 ≤ s.params.space ∧ s.holds 0x1000 digits ∧ digits.length = 9 ∧
      s.inbox = seqUpdate 0xFFFFFFFF#32 0x1000 9 true ++ [] :=
  ⟨expecting (seqUpdate 0xFFFFFFFF#32 0x1000 9 true) k3, inv_k3.inbox _, by decide, by decide, by decide, by decide,
   by decide, by decide, by decide, by decide⟩
theorem witness_OnlyTheBufferMatters :
    ∃ (s t : State) (m : Memory), s.Inv ∧ s.busy = true ∧ m ≠ s.mem ∧
      (∀ a, s.ptr ≤ a → a < s.ptr + s.len → ({ s with mem := m } : State).readByte a = s.readByte a) ∧
      engineStep s = .next t :=
  ⟨running .sw (st 0#32 0x1000 1 [(0x1000, 0x31#8)]), _, [(0x1000, 0x31#8), (0x1001, 0x32#8)],
   by constructor <;> decide, rfl, by decide,
   fun a h1 h2 => by
     have : a = 0x1000 := by
       have h2 : a < 0x1000 + 1 := h2
       have h1 : 0x1000 ≤ a := h1
       omega
     subst this; decide, rfl⟩
/-- A file of one full buffer and a shorter last read (program P4, scenario 1 has 0 bytes there). -/
theorem witness_FilesumReturnsTheFoldOfTheFile :
    ∃ s : State, s.Inv ∧ s.ready ∧ s.mayUse true ∧ 9 < s.params.space ∧ 0x4000 + 9 ≤ s.params.space ∧
      (∀ c ∈ [digits], c.length = 9) ∧ ([] : List Byte).length < 9 ∧
      s.inbox = (seqFilesum 0x4000 9 0 true ([digits].map .data ++ [.data []])).1 ++ [] :=
  ⟨expecting ((seqFilesum 0x4000 9 0 true ([digits].map .data ++ [.data []])).1 ++ []) State.reset, inv_reset.inbox _,
   by decide, by decide, by decide, by decide, by decide, by decide, rfl⟩

end Sys2Proof.Tests
end

section
/-! The invariant `State.Inv`: it holds after reset, and every step keeps it. What the sequencer and the command
decoder can answer is said once, as a case lemma each; then one lemma per layer of the step, from the
micro-operations up to the event. -/

namespace Sys2Proof.Machine

/-! ### Reset -/

/-- Right after reset the engine is idle, and the zeros of `PTR` and `LEN` lie inside any width. -/
theorem State.powerOn_inv {p : Params} (hp : p.wf = true) : (State.powerOn p).Inv where
  params := hp
  ptr := Params.space_pos p
  len := Params.space_pos p
  busy := by simp [State.powerOn]
  err := by simp [State.powerOn]
  ecodeZero := by simp [State.powerOn]
  ecodeMax := by simp [State.powerOn]
  remaining := by simp [State.powerOn]
  inRange := by simp [State.powerOn]
  hwPath := by simp [State.powerOn]
  mem := State.powerOn_mem_wf p

/-- Settles O43: for any legal parameters the power-on state meets it, and `State.reset` is one of those states. -/
theorem resetMeetsTheInvariant : Obligations.ResetMeetsTheInvariant :=
  ⟨fun _ => State.powerOn_inv, State.powerOn_inv (by decide)⟩

/-! ### What the decoder answers -/

/-- The micro-operation that the sequencer drives (R143, R146), with the bytes it may count on. -/
theorem State.decode_nextUop_cases (s : State) :
    (s.path = .sw ∧ (s.ptr % 4 ≠ 0 ∨ s.len < 8) ∧ decode (.uop s.nextUop) = .ok .tbyte) ∨
    (s.path = .sw ∧ s.ptr % 4 = 0 ∧ 8 ≤ s.len ∧ decode (.uop s.nextUop) = .ok .slice8) ∨
    (s.path = .hw ∧ 4 ≤ s.len ∧ decode (.uop s.nextUop) = .ok .crc32W) ∨
    (s.path = .hw ∧ 2 ≤ s.len ∧ s.len < 4 ∧ decode (.uop s.nextUop) = .ok .crc32H) ∨
    (s.path = .hw ∧ s.len < 2 ∧ decode (.uop s.nextUop) = .ok .crc32B) := by
  cases hp : s.path with
  | sw =>
    by_cases hc : s.ptr % 4 ≠ 0 ∨ s.len < 8
    · have hu : s.nextUop = 0b000#3 := by simp only [State.nextUop, hp, softwareUop, if_pos hc]
      exact .inl ⟨rfl, hc, by rw [hu]; rfl⟩
    · have hu : s.nextUop = 0b011#3 := by simp only [State.nextUop, hp, softwareUop, if_neg hc]
      exact .inr (.inl ⟨rfl, by omega, by omega, by rw [hu]; rfl⟩)
  | hw =>
    by_cases h4 : 4 ≤ s.len
    · have hu : s.nextUop = 0b110#3 := by simp only [State.nextUop, hp, hardwareUop, if_pos h4]
      exact .inr (.inr (.inl ⟨rfl, h4, by rw [hu]; rfl⟩))
    · by_cases h2 : 2 ≤ s.len
      · have hu : s.nextUop = 0b101#3 := by simp only [State.nextUop, hp, hardwareUop, if_neg h4, if_pos h2]
        exact .inr (.inr (.inr (.inl ⟨rfl, h2, by omega, by rw [hu]; rfl⟩)))
      · have hu : s.nextUop = 0b100#3 := by simp only [State.nextUop, hp, hardwareUop, if_neg h4, if_neg h2]
        exact .inr (.inr (.inr (.inr ⟨rfl, by omega, by rw [hu]; rfl⟩)))

/-- The command map of R83: four words, and every other is illegal. -/
theorem decode_cmd_cases (w : Word) :
    (w = 0x00000000#32 ∧ decode (.cmd w) = .ok .nop) ∨
    (w = 0x00000001#32 ∧ decode (.cmd w) = .ok .updateSw) ∨
    (w = 0x00000003#32 ∧ decode (.cmd w) = .ok .updateHw) ∨
    (w = 0x00000004#32 ∧ decode (.cmd w) = .ok .clrerr) ∨
    (w ≠ 0x00000000#32 ∧ w ≠ 0x00000001#32 ∧ w ≠ 0x00000003#32 ∧ w ≠ 0x00000004#32 ∧
      decode (.cmd w) = .error (.illegalCommand w)) := by
  by_cases h0 : w = 0x00000000#32
  · exact .inl ⟨h0, by rw [h0]; rfl⟩
  by_cases h1 : w = 0x00000001#32
  · exact .inr (.inl ⟨h1, by rw [h1]; rfl⟩)
  by_cases h3 : w = 0x00000003#32
  · exact .inr (.inr (.inl ⟨h3, by rw [h3]; rfl⟩))
  by_cases h4 : w = 0x00000004#32
  · exact .inr (.inr (.inr (.inl ⟨h4, by rw [h4]; rfl⟩)))
  · exact .inr (.inr (.inr (.inr ⟨h0, h1, h3, h4, by
      simp only [decode, decodeCommand, if_neg h0, if_neg h1, if_neg h3, if_neg h4]⟩)))

/-! ### The engine's turn -/

/-- A wrapper micro-operation that answers a next state ran its fold. -/
theorem State.wrapper_eq_next {s t u : State} :
    s.wrapper t = .next u ↔ s.params.hwBuild = true ∧ s.params.hwcap = true ∧ t = u := by
  rcases s.wrapper_cases t with ⟨hb, hc, h⟩ | ⟨hbc, h⟩ <;> rw [h]
  · simp [hb, hc]
  · rcases hbc with hb | hc
    · simp [hb]
    · simp [hc]

/-- A fold that raised `BusError`: the completion test does nothing more. -/
theorem State.Inv.raise_complete {s : State} (h : s.Inv) (e : ErrCause) : (s.raise e).complete.Inv := by
  rw [State.complete_raise]
  exact h.raise e

theorem State.Inv.fold1_complete {s : State} (h : s.Inv) (hb : s.busy = true) (hn : 1 ≤ s.len)
    (f : Word → Byte → Word) : (s.fold1 f).complete.Inv := by
  have hr := h.noteRead s.ptr 1
  rcases s.fold1_cases f with ⟨b, -, h'⟩ | ⟨-, h'⟩ <;> rw [h']
  · exact hr.retire_complete hb _ 1 hn
  · exact hr.raise_complete _

theorem State.Inv.fold2_complete {s : State} (h : s.Inv) (hb : s.busy = true) (hn : 2 ≤ s.len)
    (f : Word → Half → Word) : (s.fold2 f).complete.Inv := by
  have hr := h.noteRead s.ptr 2
  rcases s.fold2_cases f with ⟨v, -, h'⟩ | ⟨-, h'⟩ <;> rw [h']
  · exact hr.retire_complete hb _ 2 hn
  · exact hr.raise_complete _

theorem State.Inv.fold4_complete {s : State} (h : s.Inv) (hb : s.busy = true) (hn : 4 ≤ s.len)
    (f : Word → Word → Word) : (s.fold4 f).complete.Inv := by
  have hr := h.noteRead s.ptr 4
  rcases s.fold4_cases f with ⟨w, -, h'⟩ | ⟨-, h'⟩ <;> rw [h']
  · exact hr.retire_complete hb _ 4 hn
  · exact hr.raise_complete _

theorem State.Inv.fold8_complete {s : State} (h : s.Inv) (hb : s.busy = true) (hn : 8 ≤ s.len)
    (f : Word → Word → Word → Word) : (s.fold8 f).complete.Inv := by
  have hr := h.noteRead s.ptr 4
  have hrr := hr.noteRead (s.ptr + 4) 4
  rcases s.fold8_cases f with ⟨w1, w2, -, -, h'⟩ | ⟨-, h'⟩ | ⟨w1, -, -, h'⟩ <;> rw [h']
  · exact hrr.retire_complete hb _ 8 hn
  · exact hr.raise_complete _
  · exact hrr.raise_complete _

/-- The engine's turn (R143, R146, R147): each micro-operation is driven only with its bytes still in `LEN`. -/
theorem State.Inv.engineStep {s t : State} (h : s.Inv) (ht : engineStep s = .next t) : t.Inv := by
  cases hb : s.busy with
  | false =>
    rw [engineStep_idle hb] at ht
    cases ht
    exact h
  | true =>
    have hl := h.remaining hb
    rcases s.decode_nextUop_cases with ⟨-, -, hd⟩ | ⟨-, -, hn, hd⟩ | ⟨-, hn, hd⟩ | ⟨-, hn, -, hd⟩ | ⟨-, -, hd⟩ <;>
      rw [engineStep_busy hb hd, mapNext_eq_next] at ht <;> obtain ⟨u, hu, rfl⟩ := ht
    · cases hu
      exact h.fold1_complete hb hl _
    · cases hu
      exact h.fold8_complete hb hn _
    · obtain ⟨-, -, rfl⟩ := State.wrapper_eq_next.mp hu
      exact h.fold4_complete hb hn _
    · obtain ⟨-, -, rfl⟩ := State.wrapper_eq_next.mp hu
      exact h.fold2_complete hb hn _
    · obtain ⟨-, -, rfl⟩ := State.wrapper_eq_next.mp hu
      exact h.fold1_complete hb hl _

/-! ### The host's writes -/

/-- `UPDATE.SW` of an engine that takes it (R141). -/
theorem State.Inv.execUpdateSw {s t : State} (h : s.Inv) (hb : s.busy = false) (he : s.err = false)
    (ht : execUpdateSw s = .next t) : t.Inv := by
  cases ht
  exact h.acceptInRange hb he .sw (by simp)

/-- `UPDATE.HW` (R144, R114): `NoHw`, the software path in a build without the wrapper, or the hardware path. -/
theorem execUpdateHw_cases (s : State) :
    (s.params.hwBuild = true ∧ s.params.hwcap = false ∧ execUpdateHw s = .next (s.raise .noHw)) ∨
    (s.params.hwBuild = false ∧ execUpdateHw s = .next (s.acceptInRange .sw)) ∨
    (s.params.hwBuild = true ∧ s.params.hwcap = true ∧ execUpdateHw s = .next (s.acceptInRange .hw)) := by
  unfold execUpdateHw
  cases s.params.hwBuild <;> cases s.params.hwcap <;> simp

/-- `UPDATE.HW` of an engine that takes it (R144): the hardware path is latched only with a usable wrapper. -/
theorem State.Inv.execUpdateHw {s t : State} (h : s.Inv) (hb : s.busy = false) (he : s.err = false)
    (ht : execUpdateHw s = .next t) : t.Inv := by
  rcases execUpdateHw_cases s with ⟨-, -, h'⟩ | ⟨-, h'⟩ | ⟨hbuild, hcap, h'⟩ <;> cases h'.symm.trans ht
  · exact h.raise .noHw
  · exact h.acceptInRange hb he .sw (by simp)
  · exact h.acceptInRange hb he .hw fun _ => ⟨hbuild, hcap⟩

/-- A write of `CMD` (R113), in the order of R177. -/
theorem State.Inv.commandWrite {s t : State} (h : s.Inv) {w : Word} (ht : commandWrite w s = .next t) : t.Inv := by
  by_cases hb : s.busy = true
  · rw [commandWrite_busy w hb] at ht
    cases ht
    exact h
  rw [Bool.not_eq_true] at hb
  by_cases hw : w = 0x00000004#32
  · rw [commandWrite_decoded (i := .clrerr) hb (fun _ => hw) (by rw [hw]; rfl)] at ht
    cases ht
    exact h.leaveError
  by_cases he : s.err = true
  · rw [commandWrite_error hb he hw] at ht
    cases ht
    exact h
  have hd : ∀ {i}, decode (.cmd w) = .ok i → exec i s = .next t :=
    fun hi => commandWrite_decoded hb (fun h => absurd h he) hi ▸ ht
  rw [Bool.not_eq_true] at he
  rcases decode_cmd_cases w with ⟨-, hi⟩ | ⟨-, hi⟩ | ⟨-, hi⟩ | ⟨h4, -⟩ | ⟨-, -, -, -, hi⟩
  · cases hd hi
    exact h
  · exact h.execUpdateSw hb he (hd hi)
  · exact h.execUpdateHw hb he (hd hi)
  · exact absurd h4 hw
  · rw [commandWrite_illegal hb he hi] at ht
    cases ht
    exact h.enterError .illegalCmd

/-- `WR reg, value` (R113): a datapath register changes only while the engine is idle. -/
theorem State.Inv.hostWrite {s t : State} (h : s.Inv) {r : Reg} {v : Nat} (ht : hostWrite r v s = .next t) :
    t.Inv := by
  cases r with
  | cmd => exact h.commandWrite ht
  | status | reserved5 | reserved6 | reserved7 => cases ht; exact h
  | crc =>
    cases ht
    split
    · exact h
    · exact h.setCrc _
  | ptr =>
    cases ht
    split
    next => exact h
    next hb => exact h.setPtr (by simpa using hb) v
  | len =>
    cases ht
    split
    next => exact h
    next hb => exact h.setLen (by simpa using hb) v

/-! ### The event and the step -/

/-- One poll of `WAIT` (R88): a read of `STATUS`, and while busy two more events in the inbox. -/
theorem State.Inv.waitPoll {s : State} (h : s.Inv) : s.waitPoll.Inv := by
  unfold State.waitPoll
  split
  · exact (h.hostRead .status).inbox _
  · exact h.hostRead .status

/-- What each event does keeps the invariant. -/
theorem State.Inv.handle {s t : State} (h : s.Inv) {e : Event} (ht : handle e s = .next t) : t.Inv := by
  cases e with
  | read r => cases ht; exact h.hostRead r
  | write r v => exact h.hostWrite ht
  | wait => cases ht; exact h.waitPoll
  | engine => exact h.engineStep ht
  | reset => cases ht; exact h.resetEvent
  | poke a b =>
    by_cases ha : a < s.params.space
    · rw [handle_poke_inside b ha] at ht
      cases ht
      exact h.poke b ha
    · rw [handle_poke_outside b (by omega)] at ht
      cases ht

/-- Settles O42: with nothing waiting the step is the engine's turn, else it is the next event's effect. -/
theorem everyStepKeepsTheInvariant : Obligations.EveryStepKeepsTheInvariant := by
  intro s t h ht
  cases hi : s.inbox with
  | nil =>
    rw [step_of_nil hi] at ht
    exact h.engineStep ht
  | cons e rest =>
    rw [step_of_cons hi] at ht
    exact (h.inbox rest).handle ht

end Sys2Proof.Machine
end

section
/-! What may change the registers and the flags: a write of `CMD` and a step of an idle engine are each said once,
as a case lemma; the statements about `CRC`, the error state and `DONE` are read off them. -/

namespace Sys2Proof.Machine

/-! ### The state after reset -/

/-- Of the word of `STATUS` only the two parameter bits can be set right after reset (R27, R32). -/
theorem State.powerOn_statusWord (p : Params) :
    (State.powerOn p).statusWord.toNat = 64 * p.hwcap.toNat + 128 * p.hwBuild.toNat := by
  simp only [State.statusWord, State.powerOn]
  cases p.hwBuild <;> cases p.hwcap <;> rfl

/-- With nothing waiting the engine has the turn, and idle it does nothing. -/
theorem step_powerOn (p : Params) : step (State.powerOn p) = .next (State.powerOn p) := by
  rw [step_of_nil rfl, engineStep_idle rfl]

/-- Settles O38: the values are the definition's; the word of `STATUS` and the idle step are the two lemmas above. -/
theorem afterResetTheEngineIsIdle : Obligations.AfterResetTheEngineIsIdle :=
  fun p => ⟨rfl, rfl, rfl, rfl, rfl, State.powerOn_statusWord p, step_powerOn p, rfl⟩

/-! ### A write of `CMD` -/

/-- An `UPDATE` past its capability check is refused with a precise error or accepted (R141, R144). -/
theorem State.acceptInRange_error_or_accept (s : State) (p : Path) :
    (∃ e, e ≠ .busError ∧ s.acceptInRange p = s.enterError e) ∨ ∃ q, s.acceptInRange p = s.accept q := by
  unfold State.acceptInRange
  split
  · exact .inl ⟨.range, by simp, rfl⟩
  · exact .inr ⟨p, rfl⟩

/-- Acceptance leaves `DONE` cleared only where it has set `BUSY` (R141, R154). -/
theorem State.accept_busy_of_not_done {s : State} {p : Path} (h : (s.accept p).done = false) :
    (s.accept p).busy = true := by
  unfold State.accept at h ⊢
  split at h
  · cases h
  next hl => rw [if_neg hl]

/-- A ready engine takes every word but `CLRERR`'s in one of three ways: `NOP` changes nothing, a precise error is
raised, or an `UPDATE` is accepted (R83, R172 to R174). -/
theorem commandWrite_ready_cases {s t : State} {w : Word} (hs : s.ready) (hw : w ≠ 0x00000004#32)
    (ht : commandWrite w s = .next t) :
    t = s ∨ (∃ e, e ≠ .busError ∧ t = s.enterError e) ∨ ∃ p, t = s.accept p := by
  obtain ⟨hb, he⟩ := hs
  have hexec {i} (hi : decode (.cmd w) = .ok i) : exec i s = .next t :=
    commandWrite_decoded hb (by simp [he]) hi ▸ ht
  rcases decode_cmd_cases w with ⟨-, hi⟩ | ⟨-, hi⟩ | ⟨-, hi⟩ | ⟨h4, -⟩ | ⟨-, -, -, -, hi⟩
  · cases hexec hi
    exact .inl rfl
  · cases hexec hi
    exact .inr (s.acceptInRange_error_or_accept .sw)
  · rcases execUpdateHw_cases s with ⟨-, -, h⟩ | ⟨-, h⟩ | ⟨-, -, h⟩ <;> cases h.symm.trans (hexec hi)
    · exact .inr (.inl ⟨.noHw, by simp, rfl⟩)
    · exact .inr (s.acceptInRange_error_or_accept .sw)
    · exact .inr (s.acceptInRange_error_or_accept .hw)
  · exact absurd h4 hw
  · rw [commandWrite_illegal hb he hi] at ht
    cases ht
    exact .inr (.inl ⟨.illegalCmd, by simp, rfl⟩)

/-- Everything a write of `CMD` can do (R113, R177): nothing (discarded, or `NOP`), `CLRERR`, and, of a ready engine
only, entry into the error state with a precise error or acceptance of an `UPDATE`. -/
theorem commandWrite_cases {s t : State} {w : Word} (ht : commandWrite w s = .next t) :
    t = s ∨
    (s.busy = false ∧ w = 0x00000004#32 ∧ t = s.leaveError) ∨
    (s.ready ∧ ∃ e, e ≠ .busError ∧ t = s.enterError e) ∨
    (s.ready ∧ ∃ p, t = s.accept p) := by
  by_cases hb : s.busy = true
  · rw [commandWrite_busy w hb] at ht
    cases ht
    exact .inl rfl
  rw [Bool.not_eq_true] at hb
  by_cases hw : w = 0x00000004#32
  · rw [commandWrite_decoded (i := .clrerr) hb (fun _ => hw) (by rw [hw]; rfl)] at ht
    cases ht
    exact .inr (.inl ⟨hb, hw, rfl⟩)
  by_cases he : s.err = true
  · rw [commandWrite_error hb he hw] at ht
    cases ht
    exact .inl rfl
  rw [Bool.not_eq_true] at he
  rcases commandWrite_ready_cases ⟨hb, he⟩ hw ht with h | h | h
  · exact .inl h
  · exact .inr (.inr (.inl ⟨⟨hb, he⟩, h⟩))
  · exact .inr (.inr (.inr ⟨⟨hb, he⟩, h⟩))

/-! ### `CRC` -/

/-- No write of `CMD` changes `CRC`: its errors are precise (R21, R175). -/
theorem commandWrite_crc {s t : State} {w : Word} (ht : commandWrite w s = .next t) : t.crc = s.crc := by
  rcases commandWrite_cases ht with rfl | ⟨-, -, rfl⟩ | ⟨-, e, -, rfl⟩ | ⟨-, p, rfl⟩
  · rfl
  · exact s.leaveError_crc
  · exact s.enterError_crc e
  · exact s.accept_crc p

/-- Of the host's writes only `WR CRC` to an idle engine changes `CRC` (R21, R113). -/
theorem hostWrite_crc {s t : State} {r : Reg} {v : Nat} (ht : hostWrite r v s = .next t) :
    t.crc = s.crc ∨ (s.busy = false ∧ r = .crc) := by
  cases r with
  | cmd => exact .inl (commandWrite_crc ht)
  | status | reserved5 | reserved6 | reserved7 => cases ht; exact .inl rfl
  | crc =>
    cases ht
    split
    next => exact .inl rfl
    next hb => exact .inr ⟨by simpa using hb, rfl⟩
  | ptr | len => cases ht; split <;> exact .inl rfl

/-- An engine's turn that changes `CRC` is a busy engine's. -/
theorem engineStep_crc {s t : State} (ht : engineStep s = .next t) : t.crc = s.crc ∨ s.busy = true := by
  cases hb : s.busy with
  | true => exact .inr rfl
  | false =>
    rw [engineStep_idle hb] at ht
    cases ht
    exact .inl rfl

/-- A poke that answers a next state named a byte of the buffer space (R50; log entry 12). -/
theorem handle_poke_eq_next {s t : State} {a : Nat} {b : Option Byte} (ht : handle (.poke a b) s = .next t) :
    a < s.params.space ∧ t = s.poke a b := by
  by_cases ha : a < s.params.space
  · rw [handle_poke_inside b ha] at ht
    cases ht
    exact ⟨ha, rfl⟩
  · rw [handle_poke_outside b (Nat.le_of_not_lt ha)] at ht
    cases ht

/-- The three events that can change `CRC` (R21). -/
theorem handle_crc {s t : State} {e : Event} (ht : handle e s = .next t) :
    t.crc = s.crc ∨ (s.busy = false ∧ ∃ v, e = .write .crc v) ∨ (s.busy = true ∧ e = .engine) ∨ e = .reset := by
  cases e with
  | read r => cases ht; exact .inl (s.hostRead_crc r)
  | write r v =>
    rcases hostWrite_crc ht with hc | ⟨hb, rfl⟩
    · exact .inl hc
    · exact .inr (.inl ⟨hb, v, rfl⟩)
  | wait => cases ht; exact .inl s.waitPoll_crc
  | engine => exact (engineStep_crc ht).imp_right fun hb => .inr (.inl ⟨hb, rfl⟩)
  | reset => exact .inr (.inr (.inr rfl))
  | poke a b =>
    obtain ⟨-, rfl⟩ := handle_poke_eq_next ht
    exact .inl (s.poke_crc a b)

/-- Settles O46, by the event the step takes. -/
theorem crcChangesOnlyByTheseEvents : Obligations.CrcChangesOnlyByTheseEvents := by
  intro s t ht hc
  cases hi : s.inbox with
  | nil =>
    rw [step_of_nil hi] at ht
    exact .inr (.inl ⟨(engineStep_crc ht).resolve_left hc, .inl rfl⟩)
  | cons e rest =>
    rw [step_of_cons hi] at ht
    rcases (handle_crc ht).resolve_left hc with ⟨hb, v, rfl⟩ | ⟨hb, rfl⟩ | rfl
    · exact .inl ⟨hb, v, rest, rfl⟩
    · exact .inr (.inl ⟨hb, .inr ⟨rest, rfl⟩⟩)
    · exact .inr (.inr ⟨rest, rfl⟩)

/-! ### A step of an idle engine -/

/-- The flags, `ECODE` and the record of the buffer port are in `t` as they are in `s`. -/
structure State.SameFlags (s t : State) : Prop where
  busy : t.busy = s.busy
  done : t.done = s.done
  err : t.err = s.err
  ecode : t.ecode = s.ecode
  accesses : t.accesses = s.accesses

/-- A write of another register than `CMD` changes no flag (R113). -/
theorem hostWrite_sameFlags {s t : State} {r : Reg} {v : Nat} (hr : r ≠ .cmd) (ht : hostWrite r v s = .next t) :
    s.SameFlags t := by
  cases r with
  | cmd => exact absurd rfl hr
  | status | reserved5 | reserved6 | reserved7 => cases ht; exact ⟨rfl, rfl, rfl, rfl, rfl⟩
  | crc | ptr | len => cases ht; split <;> exact ⟨rfl, rfl, rfl, rfl, rfl⟩

/-- A poll of `WAIT` only reads `STATUS` (R88). -/
theorem State.waitPoll_sameFlags (s : State) : s.SameFlags s.waitPoll :=
  ⟨s.waitPoll_busy, s.waitPoll_done, s.waitPoll_err, s.waitPoll_ecode, s.waitPoll_accesses⟩

/-- What an event can do to the flags of an idle engine: a write of `CMD`, the reset event, or nothing (R25). -/
theorem handle_idle_cases {s t : State} {e : Event} (hb : s.busy = false) (ht : handle e s = .next t) :
    (∃ v, e = .write .cmd v ∧ commandWrite (BitVec.ofNat 32 v) s = .next t) ∨
    (e = .reset ∧ t = s.resetEvent) ∨
    s.SameFlags t := by
  cases e with
  | read r => cases ht; exact .inr (.inr ⟨rfl, rfl, rfl, rfl, rfl⟩)
  | write r v =>
    by_cases hr : r = .cmd
    · subst hr
      exact .inl ⟨v, rfl, ht⟩
    · exact .inr (.inr (hostWrite_sameFlags hr ht))
  | wait => cases ht; exact .inr (.inr s.waitPoll_sameFlags)
  | engine =>
    rw [handle_engine, engineStep_idle hb] at ht
    cases ht
    exact .inr (.inr ⟨rfl, rfl, rfl, rfl, rfl⟩)
  | reset => cases ht; exact .inr (.inl ⟨rfl, rfl⟩)
  | poke a b =>
    obtain ⟨-, rfl⟩ := handle_poke_eq_next ht
    exact .inr (.inr ⟨rfl, rfl, rfl, rfl, rfl⟩)

/-- The same for a step; with nothing waiting an idle engine's turn changes nothing. -/
theorem step_idle_cases {s t : State} (hb : s.busy = false) (ht : step s = .next t) :
    (∃ v rest, s.inbox = .write .cmd v :: rest ∧
      commandWrite (BitVec.ofNat 32 v) { s with inbox := rest } = .next t) ∨
    (∃ rest, s.inbox = .reset :: rest ∧ t = State.resetEvent { s with inbox := rest }) ∨
    s.SameFlags t := by
  cases hi : s.inbox with
  | nil =>
    rw [step_of_nil hi, engineStep_idle hb] at ht
    cases ht
    exact .inr (.inr ⟨rfl, rfl, rfl, rfl, rfl⟩)
  | cons e rest =>
    rw [step_of_cons hi] at ht
    rcases handle_idle_cases (s := { s with inbox := rest }) hb ht with ⟨v, rfl, hcmd⟩ | ⟨rfl, h⟩ | h
    · exact .inl ⟨v, rest, rfl, hcmd⟩
    · exact .inr (.inl ⟨rest, rfl, h⟩)
    · exact .inr (.inr ⟨h.busy, h.done, h.err, h.ecode, h.accesses⟩)

/-! ### The error state and `DONE` -/

/-- The engine is idle in the error state (R27). -/
theorem State.Inv.busy_of_err {s : State} (h : s.Inv) (he : s.err = true) : s.busy = false := by
  cases hb : s.busy with
  | false => rfl
  | true => exact nomatch (h.busy hb).1.symm.trans he

/-- With `DONE` set the engine is idle (R27). -/
theorem State.Inv.busy_of_done {s : State} (h : s.Inv) (hd : s.done = true) : s.busy = false := by
  cases hb : s.busy with
  | false => rfl
  | true => exact nomatch (h.busy hb).2.symm.trans hd

/-- In the error state a write of `CMD` is discarded or is `CLRERR` (R148, R177). -/
theorem commandWrite_of_err {s t : State} {w : Word} (he : s.err = true) (ht : commandWrite w s = .next t) :
    t = s ∨ (w = 0x00000004#32 ∧ t = s.leaveError) := by
  rcases commandWrite_cases ht with h | ⟨-, hw, h⟩ | ⟨⟨-, hne⟩, -⟩ | ⟨⟨-, hne⟩, -⟩
  · exact .inl h
  · exact .inr ⟨hw, h⟩
  · nomatch hne.symm.trans he
  · nomatch hne.symm.trans he

/-- A write of `CMD` that clears `DONE` has set `BUSY` or raised an error (R141, R176). -/
theorem commandWrite_clears_done {s t : State} {w : Word} (hd : s.done = true) (ht : commandWrite w s = .next t)
    (hn : t.done = false) : t.busy = true ∨ t.err = true := by
  rcases commandWrite_cases ht with rfl | ⟨-, -, rfl⟩ | ⟨-, e, -, rfl⟩ | ⟨-, p, rfl⟩
  · nomatch hn.symm.trans hd
  · nomatch hn.symm.trans hd
  · exact .inr (s.enterError_err e)
  · exact .inl (State.accept_busy_of_not_done hn)

/-- Settles O47: the error state is an idle state, where only `CLRERR` and reset touch the flags. -/
theorem errorStateEndsOnlyByClrerrOrReset : Obligations.ErrorStateEndsOnlyByClrerrOrReset := by
  intro s t h he ht
  have hb : s.busy = false := h.busy_of_err he
  rcases step_idle_cases hb ht with ⟨v, rest, hi, hcmd⟩ | ⟨rest, hi, rfl⟩ | hsame
  · rcases commandWrite_of_err (s := { s with inbox := rest }) he hcmd with rfl | ⟨hw, rfl⟩
    · exact ⟨fun hne => (nomatch hne.symm.trans he), fun _ => rfl, hb, rfl⟩
    · exact ⟨fun _ => .inl ⟨v, rest, hi, hw⟩, fun h1 => absurd h1 (by simp), hb, rfl⟩
  · exact ⟨fun _ => .inr ⟨rest, hi⟩, fun h1 => absurd h1 (by simp), rfl, rfl⟩
  · exact ⟨fun hne => (nomatch hne.symm.trans (hsame.err.trans he)), fun _ => hsame.ecode,
      hsame.busy.trans hb, hsame.accesses⟩

/-- Settles O48: with `DONE` set the engine is idle, and of a write of `CMD` only an accepted `UPDATE` or an error
clears it. -/
theorem doneStaysUntilNextUpdateErrorOrReset : Obligations.DoneStaysUntilNextUpdateErrorOrReset := by
  intro s t h hd ht hn
  rcases step_idle_cases (h.busy_of_done hd) ht with ⟨v, rest, hi, hcmd⟩ | ⟨rest, hi, -⟩ | hsame
  · exact .inl ⟨v, rest, hi, commandWrite_clears_done (s := { s with inbox := rest }) hd hcmd hn⟩
  · exact .inr ⟨rest, hi⟩
  · nomatch hn.symm.trans (hsame.done.trans hd)

end Sys2Proof.Machine
end

section
/-! `MemRead` at its three widths (R52): a wide read assembles its bytes little-endian, and it gets the error response
exactly when one of its bytes does. From these, what an unserved operand does to the four one-read micro-operations. -/

namespace Sys2Proof.Machine

/-! ### Little-endian assembly -/

/-- Two adjacent bytes of a value, assembled, are its 16 bits from the lower one on. -/
theorem le16_adjacent {n : Nat} (v : BitVec n) (k : Nat) :
    le16 (v.extractLsb' k 8) (v.extractLsb' (k + 8) 8) = v.extractLsb' k 16 :=
  BitVec.extractLsb'_append_extractLsb'_eq_extractLsb' rfl

/-- A 16-bit value is assembled from its own two bytes and no others (R52). -/
theorem eq_le16_iff {h : Half} {b0 b1 : Byte} :
    h = le16 b0 b1 ↔ b0 = h.extractLsb' 0 8 ∧ b1 = h.extractLsb' 8 8 := by
  constructor
  · rintro rfl
    exact ⟨(le16_low b0 b1).symm, (le16_high b0 b1).symm⟩
  · rintro ⟨rfl, rfl⟩
    exact ((le16_adjacent h 0).trans BitVec.extractLsb'_eq_self).symm

/-- A 32-bit value is assembled from its own four bytes and no others (R51, R52). -/
theorem eq_le32_iff {w : Word} {b0 b1 b2 b3 : Byte} :
    w = le32 b0 b1 b2 b3 ↔ b0 = byteOf w 0 ∧ b1 = byteOf w 1 ∧ b2 = byteOf w 2 ∧ b3 = byteOf w 3 := by
  constructor
  · rintro rfl
    exact ⟨(byteOf_le32_0 ..).symm, (byteOf_le32_1 ..).symm, (byteOf_le32_2 ..).symm, (byteOf_le32_3 ..).symm⟩
  · rintro ⟨rfl, rfl, rfl, rfl⟩
    calc w = w.extractLsb' 16 16 ++ w.extractLsb' 0 16 :=
          ((BitVec.extractLsb'_append_extractLsb'_eq_extractLsb' (start₂ := 16) (len₁ := 16) rfl).trans
            BitVec.extractLsb'_eq_self).symm
      _ = le32 (byteOf w 0) (byteOf w 1) (byteOf w 2) (byteOf w 3) :=
          congrArg₂ (· ++ ·) (le16_adjacent w 16).symm (le16_adjacent w 0).symm

/-- `MemRead(a, 2)` byte by byte (R52). -/
theorem State.memRead2_eq_some_iff_bytes {s : State} {a : Nat} {h : Half} :
    s.memRead2 a = some h ↔ ∀ i < 2, s.memRead1 (a + i) = some (h.extractLsb' (8 * i) 8) := by
  simp only [Nat.forall_lt_succ_right, Nat.not_lt_zero, IsEmpty.forall_iff, forall_const, true_and]
  simp [State.memRead2_eq_some, eq_le16_iff, State.memRead1]

/-- `MemRead(a, 4)` byte by byte (R52). -/
theorem State.memRead4_eq_some_iff_bytes {s : State} {a : Nat} {w : Word} :
    s.memRead4 a = some w ↔ ∀ i < 4, s.memRead1 (a + i) = some (w.extractLsb' (8 * i) 8) := by
  simp only [Nat.forall_lt_succ_right, Nat.not_lt_zero, IsEmpty.forall_iff, forall_const, true_and]
  simp [State.memRead4_eq_some, eq_le32_iff, State.memRead1, byteOf, and_assoc]

/-- Settles O17: the 1-byte read is the byte, the wide ones are the two lemmas above. -/
theorem memReadIsLittleEndian : Obligations.MemReadIsLittleEndian :=
  ⟨fun _ _ _ => Iff.rfl, fun _ _ _ => State.memRead2_eq_some_iff_bytes, fun _ _ _ => State.memRead4_eq_some_iff_bytes⟩

/-! ### The error response -/

/-- A 1-byte read gets the error response exactly when its byte cannot be read (R62). -/
theorem State.memRead1_eq_none_iff {s : State} {a : Nat} : s.memRead1 a = none ↔ s.readBytes a 1 = none := by
  simp only [State.memRead1, State.readBytes]
  cases s.readByte a <;> simp

/-- A 2-byte read gets the error response exactly when one of its bytes does (log entry 11). -/
theorem State.memRead2_eq_none_iff {s : State} {a : Nat} : s.memRead2 a = none ↔ s.readBytes a 2 = none := by
  simp only [State.memRead2, State.readBytes]
  cases s.readByte a <;> cases s.readByte (a + 1) <;> simp

/-- A 4-byte read gets the error response exactly when one of its bytes does (log entry 11). -/
theorem State.memRead4_eq_none_iff {s : State} {a : Nat} : s.memRead4 a = none ↔ s.readBytes a 4 = none := by
  simp only [State.memRead4, State.memRead2, State.readBytes]
  cases s.readByte a <;> cases s.readByte (a + 1) <;> cases s.readByte (a + 2) <;> cases s.readByte (a + 3) <;> simp

/-- `raise BusError` said whole (R175, R176): some values of their widths in the datapath registers, the flags and
the code, one more draw, and nothing else. -/
theorem State.raise_busError_eq (s : State) :
    ∃ (c : Word) (p l : Nat), p < s.params.space ∧ l < s.params.space ∧
      s.raise .busError = { s with
        crc := c, ptr := p, len := l, busy := false, done := false, err := true, ecode := 4#3,
        draws := s.draws + 1 } :=
  ⟨_, _, _, Nat.mod_lt _ (Params.space_pos _), Nat.mod_lt _ (Params.space_pos _), rfl⟩

theorem State.fold1_unserved {s : State} (f : Word → Byte → Word) (h : s.readBytes s.ptr 1 = none) :
    s.fold1 f = (s.noteRead s.ptr 1).raise .busError := by
  simp only [State.fold1, State.memRead1_eq_none_iff.mpr h]

theorem State.fold2_unserved {s : State} (f : Word → Half → Word) (h : s.readBytes s.ptr 2 = none) :
    s.fold2 f = (s.noteRead s.ptr 2).raise .busError := by
  simp only [State.fold2, State.memRead2_eq_none_iff.mpr h]

theorem State.fold4_unserved {s : State} (f : Word → Word → Word) (h : s.readBytes s.ptr 4 = none) :
    s.fold4 f = (s.noteRead s.ptr 4).raise .busError := by
  simp only [State.fold4, State.memRead4_eq_none_iff.mpr h]

/-- A micro-operation with one read, the wrapper usable if it needs it: an operand that is not served raises
`BusError` after the one access (R175). -/
theorem exec_unserved {s : State} {i : Instr} {n : Nat}
    (hi : (i, n) ∈ [(Instr.tbyte, 1), (Instr.crc32B, 1), (Instr.crc32H, 2), (Instr.crc32W, 4)])
    (hw : i ≠ .tbyte → s.params.hwBuild = true ∧ s.params.hwcap = true) (hr : s.readBytes s.ptr n = none) :
    exec i s = .next ((s.noteRead s.ptr n).raise .busError) := by
  simp only [List.mem_cons, Prod.mk.injEq, List.not_mem_nil, or_false] at hi
  rcases hi with ⟨rfl, rfl⟩ | ⟨rfl, rfl⟩ | ⟨rfl, rfl⟩ | ⟨rfl, rfl⟩
  · exact congrArg _ (State.fold1_unserved tbyteFn hr)
  · obtain ⟨hb, hc⟩ := hw (by simp)
    exact State.wrapper_eq_next.mpr ⟨hb, hc, State.fold1_unserved crc32BFn hr⟩
  · obtain ⟨hb, hc⟩ := hw (by simp)
    exact State.wrapper_eq_next.mpr ⟨hb, hc, State.fold2_unserved crc32HFn hr⟩
  · obtain ⟨hb, hc⟩ := hw (by simp)
    exact State.wrapper_eq_next.mpr ⟨hb, hc, State.fold4_unserved crc32WFn hr⟩

/-- Settles O21: the micro-operation ends in `raise BusError`, whose effect is said above. -/
theorem unservedReadRaisesBusError : Obligations.UnservedReadRaisesBusError := by
  intro s i n hi hw hr
  obtain ⟨c, p, l, hp, hl, h⟩ := State.raise_busError_eq (s.noteRead s.ptr n)
  exact ⟨c, p, l, hp, hl, (exec_unserved hi hw hr).trans (congrArg _ h)⟩

end Sys2Proof.Machine
end

section
/-! What a turn of the engine does at the buffer port, said once (`engineStep_busy_cases`): it reads the next bytes of
the buffer in order and retires, or it raises `BusError`. From it, that the engine writes no memory, and that a run
reads its buffer once and in order. -/

namespace Sys2Proof.Machine

/-! ### The accesses of a micro-operation -/

/-- The reads `as` issued on the buffer port, oldest first (R57). -/
def State.noteReads (s : State) (as : List Access) : State := { s with accesses := s.accesses ++ as }

/-- One read issued is a list of one. -/
theorem State.noteRead_eq (s : State) (a n : Nat) : s.noteRead a n = s.noteReads [⟨a, n⟩] := rfl

/-- The two reads of `SLICE8` as one list. -/
theorem State.noteRead_noteRead (s : State) (a n b m : Nat) :
    (s.noteRead a n).noteRead b m = s.noteReads [⟨a, n⟩, ⟨b, m⟩] := by
  simp [State.noteRead, State.noteReads]

/-- The accesses `as` read the `n` bytes at `a`, each once and in ascending order, with the widths and the alignment
that the path allows (R55, R57, R58). -/
structure ReadsInOrder (p : Path) (a n : Nat) (as : List Access) : Prop where
  covered : touched as = List.range' a n
  widths : ∀ x ∈ as, x.width = 1 ∨ x.width = 2 ∨ x.width = 4
  software : p = .sw → ∀ x ∈ as, x.width = 1 ∨ (x.width = 4 ∧ x.addr % 4 = 0)

theorem ReadsInOrder.single {p : Path} {a n : Nat} (hw : n = 1 ∨ n = 2 ∨ n = 4)
    (hs : p = .sw → n = 1 ∨ (n = 4 ∧ a % 4 = 0)) : ReadsInOrder p a n [⟨a, n⟩] :=
  ⟨by simp [touched], by simpa using hw, by simpa using hs⟩

/-- Two stretches read one after the other. -/
theorem ReadsInOrder.append {p : Path} {a m n : Nat} {as bs : List Access} (h : ReadsInOrder p a m as)
    (k : ReadsInOrder p (a + m) n bs) : ReadsInOrder p a (m + n) (as ++ bs) where
  covered := by
    have hc : touched (as ++ bs) = touched as ++ touched bs := List.flatMap_append
    rw [hc, h.covered, k.covered, List.range'_append_1]
  widths := List.forall_mem_append.mpr ⟨h.widths, k.widths⟩
  software hp := List.forall_mem_append.mpr ⟨h.software hp, k.software hp⟩

/-! ### What a fold can do -/

/-- What a micro-operation that consumes `n` bytes leaves of `s`: the bytes are served and it retires, or one of them
is not and it raises `BusError`; either way it has only issued reads before (R57, R175). -/
inductive State.RetiresOrRaises (s : State) (n : Nat) : State → Prop where
  | retires (as : List Access) (v : Word) (served : s.readBytes s.ptr n ≠ none)
      (reads : ReadsInOrder s.path s.ptr n as) : s.RetiresOrRaises n ((s.noteReads as).retire v n)
  | raises (as : List Access) (unserved : s.readBytes s.ptr n = none) :
      s.RetiresOrRaises n ((s.noteReads as).raise .busError)

theorem State.fold1_retiresOrRaises (s : State) (f : Word → Byte → Word) : s.RetiresOrRaises 1 (s.fold1 f) := by
  rcases s.fold1_cases f with ⟨b, hm, h⟩ | ⟨hm, h⟩ <;> rw [h, State.noteRead_eq]
  · exact .retires _ _ (State.memRead1_eq_none_iff.not.mp (by simp [hm])) (.single (by simp) (by simp))
  · exact .raises _ (State.memRead1_eq_none_iff.mp hm)

/-- A 2-byte read is the hardware path's (R55). -/
theorem State.fold2_retiresOrRaises {s : State} (hp : s.path = .hw) (f : Word → Half → Word) :
    s.RetiresOrRaises 2 (s.fold2 f) := by
  rcases s.fold2_cases f with ⟨v, hm, h⟩ | ⟨hm, h⟩ <;> rw [h, State.noteRead_eq]
  · exact .retires _ _ (State.memRead2_eq_none_iff.not.mp (by simp [hm])) (.single (by simp) (by simp [hp]))
  · exact .raises _ (State.memRead2_eq_none_iff.mp hm)

/-- A single 4-byte read is the hardware path's, at any alignment (R55, R56). -/
theorem State.fold4_retiresOrRaises {s : State} (hp : s.path = .hw) (f : Word → Word → Word) :
    s.RetiresOrRaises 4 (s.fold4 f) := by
  rcases s.fold4_cases f with ⟨w, hm, h⟩ | ⟨hm, h⟩ <;> rw [h, State.noteRead_eq]
  · exact .retires _ _ (State.memRead4_eq_none_iff.not.mp (by simp [hm])) (.single (by simp) (by simp [hp]))
  · exact .raises _ (State.memRead4_eq_none_iff.mp hm)

/-- A run of bytes is unreadable exactly when one of its two parts is. -/
theorem State.readBytes_add_eq_none_iff {s : State} {a m n : Nat} :
    s.readBytes a (m + n) = none ↔ s.readBytes a m = none ∨ s.readBytes (a + m) n = none := by
  rw [← not_iff_not, not_or]
  simp only [← ne_eq, Option.ne_none_iff_exists', State.readBytes_add_eq_some]
  constructor
  · rintro ⟨_, xs, ys, hx, hy, -⟩
    exact ⟨⟨xs, hx⟩, ys, hy⟩
  · rintro ⟨⟨xs, hx⟩, ys, hy⟩
    exact ⟨_, xs, ys, hx, hy, rfl⟩

/-- Both words of a bulk step are read at aligned addresses (R55, R143). -/
theorem State.fold8_retiresOrRaises {s : State} (ha : s.ptr % 4 = 0) (f : Word → Word → Word → Word) :
    s.RetiresOrRaises 8 (s.fold8 f) := by
  have hnone : s.readBytes s.ptr 8 = none ↔ s.memRead4 s.ptr = none ∨ s.memRead4 (s.ptr + 4) = none := by
    rw [State.memRead4_eq_none_iff, State.memRead4_eq_none_iff, ← State.readBytes_add_eq_none_iff]
  rcases s.fold8_cases f with ⟨w1, w2, h1, h2, h⟩ | ⟨h1, h⟩ | ⟨w1, h1, h2, h⟩ <;> rw [h]
  · rw [State.noteRead_noteRead]
    refine .retires _ _ (hnone.not.mpr (by simp [h1, h2])) (.append (m := 4) (n := 4) (as := [_]) ?_ ?_)
    · exact .single (by simp) (by simp [ha])
    · exact .single (by simp) (fun _ => .inr ⟨rfl, by omega⟩)
  · exact .raises _ (hnone.mpr (.inl h1))
  · rw [State.noteRead_noteRead]
    exact .raises _ (hnone.mpr (.inr h2))

/-! ### What a turn can do -/

/-- On its turn a busy engine runs a micro-operation over the next `n` bytes of the buffer, and then the completion
test (R143, R146, R147). -/
theorem engineStep_busy_cases {s t : State} (hb : s.busy = true) (ht : engineStep s = .next t) :
    ∃ n u, 1 ≤ n ∧ (1 ≤ s.len → n ≤ s.len) ∧ s.RetiresOrRaises n u ∧ t = u.complete := by
  rcases s.decode_nextUop_cases with ⟨-, -, hd⟩ | ⟨-, ha, hn, hd⟩ | ⟨hp, hn, hd⟩ | ⟨hp, hn, -, hd⟩ | ⟨-, -, hd⟩ <;>
    rw [engineStep_busy hb hd, mapNext_eq_next] at ht <;> obtain ⟨u, hu, rfl⟩ := ht
  · cases hu
    exact ⟨1, _, le_rfl, id, s.fold1_retiresOrRaises _, rfl⟩
  · cases hu
    exact ⟨8, _, by decide, fun _ => hn, State.fold8_retiresOrRaises ha _, rfl⟩
  · obtain ⟨-, -, rfl⟩ := State.wrapper_eq_next.mp hu
    exact ⟨4, _, by decide, fun _ => hn, State.fold4_retiresOrRaises hp _, rfl⟩
  · obtain ⟨-, -, rfl⟩ := State.wrapper_eq_next.mp hu
    exact ⟨2, _, by decide, fun _ => hn, State.fold2_retiresOrRaises hp _, rfl⟩
  · obtain ⟨-, -, rfl⟩ := State.wrapper_eq_next.mp hu
    exact ⟨1, _, le_rfl, id, s.fold1_retiresOrRaises _, rfl⟩

/-! ### No turn and no register access writes memory -/

/-- The parameters and the buffer space are in `t` as they are in `s`. -/
structure State.SameSpace (s t : State) : Prop where
  params : t.params = s.params
  mem : t.mem = s.mem

/-- The engine only reads the buffer space (R57, R65). -/
theorem engineStep_sameSpace {s t : State} (ht : engineStep s = .next t) : s.SameSpace t := by
  cases hb : s.busy with
  | false =>
    rw [engineStep_idle hb] at ht
    cases ht
    exact ⟨rfl, rfl⟩
  | true =>
    obtain ⟨n, u, -, -, hu, rfl⟩ := engineStep_busy_cases hb ht
    refine ⟨u.complete_params.trans ?_, u.complete_mem.trans ?_⟩ <;> cases hu <;> rfl

theorem commandWrite_sameSpace {s t : State} {w : Word} (ht : commandWrite w s = .next t) : s.SameSpace t := by
  rcases commandWrite_cases ht with rfl | ⟨-, -, rfl⟩ | ⟨-, e, -, rfl⟩ | ⟨-, p, rfl⟩
  · exact ⟨rfl, rfl⟩
  · exact ⟨s.leaveError_params, s.leaveError_mem⟩
  · exact ⟨s.enterError_params e, s.enterError_mem e⟩
  · exact ⟨s.accept_params p, s.accept_mem p⟩

theorem hostWrite_sameSpace {s t : State} {r : Reg} {v : Nat} (ht : hostWrite r v s = .next t) : s.SameSpace t := by
  cases r with
  | cmd => exact commandWrite_sameSpace ht
  | status | reserved5 | reserved6 | reserved7 => cases ht; exact ⟨rfl, rfl⟩
  | crc | ptr | len => cases ht; split <;> exact ⟨rfl, rfl⟩

/-- Of the events only a poke touches the buffer space (R65). -/
theorem handle_sameSpace {s t : State} {e : Event} (he : ∀ a b, e ≠ .poke a b) (ht : handle e s = .next t) :
    s.SameSpace t := by
  cases e with
  | read r => cases ht; exact ⟨s.hostRead_params r, s.hostRead_mem r⟩
  | write r v => exact hostWrite_sameSpace ht
  | wait => cases ht; exact ⟨s.waitPoll_params, s.waitPoll_mem⟩
  | engine => exact engineStep_sameSpace ht
  | reset => cases ht; exact ⟨s.resetEvent_params, s.resetEvent_mem⟩
  | poke a b => exact absurd rfl (he a b)

/-- A step whose next event is no poke leaves the buffer space alone (R57, R65). -/
theorem step_sameSpace {s t : State} (he : ∀ a b rest, s.inbox ≠ .poke a b :: rest) (ht : step s = .next t) :
    s.SameSpace t := by
  cases hi : s.inbox with
  | nil =>
    rw [step_of_nil hi] at ht
    exact engineStep_sameSpace ht
  | cons e rest =>
    rw [step_of_cons hi] at ht
    obtain ⟨hp, hm⟩ := handle_sameSpace (fun a b h => he a b rest (by rw [hi, h])) ht
    exact ⟨hp, hm⟩

/-- A step whose next event is a poke is that poke, of a byte of the buffer space. -/
theorem step_poke {s t : State} {a : Nat} {b : Option Byte} {rest : List Event} (hi : s.inbox = .poke a b :: rest)
    (ht : step s = .next t) : a < s.params.space ∧ t = State.poke { s with inbox := rest } a b := by
  rw [step_of_cons hi] at ht
  exact handle_poke_eq_next ht

/-- Settles O45, by whether the next event is a poke. -/
theorem onlyPokesWriteMemory : Obligations.OnlyPokesWriteMemory := by
  intro s t ht
  refine ⟨?_, fun he => (step_sameSpace he ht).mem, fun a b rest hi x => ?_⟩
  · by_cases he : ∃ a b rest, s.inbox = .poke a b :: rest
    · obtain ⟨a, b, rest, hi⟩ := he
      obtain ⟨-, rfl⟩ := step_poke hi ht
      rfl
    · exact (step_sameSpace (fun a b rest hi => he ⟨a, b, rest, hi⟩) ht).params
  · obtain ⟨ha, rfl⟩ := step_poke hi ht
    exact State.readByte_poke { s with inbox := rest } x b ha

/-! ### A run over readable bytes -/

/-- In a legal state the engine's turn has a next state: the wrapper is driven only where it is usable (R144, R173). -/
theorem exists_engineStep {s : State} (h : s.Inv) : ∃ t, engineStep s = .next t := by
  cases hb : s.busy with
  | false => exact ⟨s, engineStep_idle hb⟩
  | true =>
    have hw (hp : s.path = .hw) (u : State) : s.wrapper u = .next u :=
      State.wrapper_eq_next.mpr ⟨(h.hwPath hb hp).1, (h.hwPath hb hp).2, rfl⟩
    rcases s.decode_nextUop_cases with ⟨-, -, hd⟩ | ⟨-, -, -, hd⟩ | ⟨hp, -, hd⟩ | ⟨hp, -, -, hd⟩ | ⟨hp, -, hd⟩ <;>
      rw [engineStep_busy hb hd]
    · exact ⟨_, rfl⟩
    · exact ⟨_, rfl⟩
    · exact ⟨_, congrArg _ (hw hp _)⟩
    · exact ⟨_, congrArg _ (hw hp _)⟩
    · exact ⟨_, congrArg _ (hw hp _)⟩

/-- Where the rest of the buffer can be read, a busy engine's turn retires some of its bytes (R143, R146). -/
theorem engineStep_readable {s : State} (h : s.Inv) (hb : s.busy = true) (hr : s.readBytes s.ptr s.len ≠ none) :
    ∃ n as v, 1 ≤ n ∧ n ≤ s.len ∧ ReadsInOrder s.path s.ptr n as ∧
      engineStep s = .next ((s.noteReads as).retire v n).complete := by
  obtain ⟨t, ht⟩ := exists_engineStep h
  obtain ⟨n, u, h1, hn, hu, rfl⟩ := engineStep_busy_cases hb ht
  have hn := hn (h.remaining hb)
  cases hu with
  | retires as v _ reads => exact ⟨n, as, v, h1, hn, reads, ht⟩
  | raises as unserved =>
    obtain ⟨k, hk⟩ := Nat.exists_eq_add_of_le hn
    exact absurd (State.readBytes_add_eq_none_iff.mpr (.inl unserved)) (hk ▸ hr)

/-- The micro-operation that consumes the last bytes completes the command (R147). -/
theorem State.Inv.retire_last {s : State} (h : s.Inv) (hb : s.busy = true) (v : Word) {n : Nat} (hn : n = s.len) :
    (s.retire v n).complete = { s with
      crc := v, ptr := (s.ptr + n) % s.params.space, len := 0, busy := false, done := true } := by
  rw [State.retire_eq hn.le h.len, Nat.sub_eq_zero_of_le hn.ge]
  exact if_pos ⟨hb, rfl⟩

/-- A micro-operation that leaves bytes leaves the engine busy at the first of them (R9, R143, R146). -/
theorem State.Inv.retire_more {s : State} (h : s.Inv) (hb : s.busy = true) (v : Word) {n : Nat} (hn : n < s.len) :
    (s.retire v n).complete = { s with crc := v, ptr := s.ptr + n, len := s.len - n } := by
  have hptr : s.ptr + n < s.params.space := by have := h.inRange hb; omega
  rw [State.retire_eq hn.le h.len, Nat.mod_eq_of_lt hptr]
  exact if_neg fun hc => Nat.sub_ne_zero_of_lt hn hc.2

/-- In `t` a run on the path `p` has completed that read the `n` bytes at `a` after the accesses `before`. -/
structure State.CompletedAfter (t : State) (before : List Access) (p : Path) (a n : Nat) : Prop where
  busy : t.busy = false
  done : t.done = true
  reads : ∃ as, t.accesses = before ++ as ∧ ReadsInOrder p a n as

/-- A run that reads `m` bytes and then completes after `n` more has read all of them. -/
theorem State.CompletedAfter.prepend {t : State} {before as : List Access} {p : Path} {a m n : Nat}
    (hreads : ReadsInOrder p a m as) (h : t.CompletedAfter (before ++ as) p (a + m) n) :
    t.CompletedAfter before p a (m + n) := by
  obtain ⟨bs, hacc, hbs⟩ := h.reads
  exact ⟨h.busy, h.done, as ++ bs, by rw [hacc, List.append_assoc], hreads.append hbs⟩

/-- A run of at least `LEN` turns over readable bytes completes and has read them in order: by induction on the turns,
the first reads some bytes, and the rest of the run reads what follows. -/
theorem engineRun_readable {k : Nat} {s : State} (h : s.Inv) (hb : s.busy = true)
    (hr : s.readBytes s.ptr s.len ≠ none) (hk : s.len ≤ k) :
    ∃ t, engineRun k s = .next t ∧ t.CompletedAfter s.accesses s.path s.ptr s.len := by
  induction k generalizing s with
  | zero => exact absurd (h.remaining hb) (by omega)
  | succ k ih =>
    obtain ⟨n, as, v, h1, hn, hreads, ht⟩ := engineStep_readable h hb hr
    have hinv := h.engineStep ht
    rw [engineRun_succ k ht]
    rcases Nat.eq_or_lt_of_le hn with hn | hn
    · rw [State.Inv.retire_last (s := s.noteReads as) (h.accesses _) hb v hn]
      exact ⟨_, engineRun_idle rfl k, rfl, rfl, as, rfl, hn ▸ hreads⟩
    · rw [State.Inv.retire_more (s := s.noteReads as) (h.accesses _) hb v hn] at hinv ⊢
      have hlen : n + (s.len - n) = s.len := Nat.add_sub_cancel' hn.le
      have hrest : s.readBytes (s.ptr + n) (s.len - n) ≠ none := fun hnone =>
        hr (hlen ▸ State.readBytes_add_eq_none_iff.mpr (.inr hnone))
      obtain ⟨t, hrun, hdone⟩ := ih hinv hb ((State.readBytes_congr (s := s) (by rfl) (by rfl) _ _).trans_ne hrest)
        (show s.len - n ≤ k by omega)
      exact ⟨t, hrun, hlen ▸ hdone.prepend hreads⟩

/-- Settles O51: `LEN` turns are enough for the run, and what it has read is in order. -/
theorem everyBufferByteIsReadOnceInOrder : Obligations.EveryBufferByteIsReadOnceInOrder := by
  intro s bs h hb hbs hlen
  have hr : s.readBytes s.ptr s.len ≠ none := by rw [← hlen, hbs]; exact Option.some_ne_none bs
  obtain ⟨t, hrun, hbusy, hdone, as, hacc, hreads⟩ := engineRun_readable h hb hr le_rfl
  exact ⟨t, as, hrun, hbusy, hdone, hacc, hreads.covered, hreads.widths, hreads.software⟩

end Sys2Proof.Machine
end

section
/-! A turn of the engine on the same state with another memory: where the two memories agree on the rest of the
buffer, every read of the turn answers the same, and each operation of the turn commutes with the exchange. -/

namespace Sys2Proof.Machine

/-! ### The same state with another memory -/

/-- The state with the buffer space exchanged for `m`. -/
def State.setMem (s : State) (m : Memory) : State := { s with mem := m }

/-- On the `n` addresses from `a` on, the port answers the same with `m` for the buffer space (R50). -/
def State.AgreesOn (s : State) (m : Memory) (a n : Nat) : Prop :=
  ∀ x, a ≤ x → x < a + n → (s.setMem m).readByte x = s.readByte x

/-- Agreement on a stretch is agreement on each part of it. -/
theorem State.AgreesOn.part {s : State} {m : Memory} {a n b k : Nat} (h : s.AgreesOn m a n) (hb : a ≤ b)
    (hk : b + k ≤ a + n) : s.AgreesOn m b k :=
  fun x h1 h2 => h x (hb.trans h1) (h2.trans_le hk)

theorem State.memRead1_setMem {s : State} {m : Memory} {a : Nat} (h : s.AgreesOn m a 1) :
    (s.setMem m).memRead1 a = s.memRead1 a :=
  h a le_rfl (by omega)

theorem State.memRead2_setMem {s : State} {m : Memory} {a : Nat} (h : s.AgreesOn m a 2) :
    (s.setMem m).memRead2 a = s.memRead2 a := by
  simp only [State.memRead2, h a le_rfl (by omega), h (a + 1) (by omega) (by omega)]

theorem State.memRead4_setMem {s : State} {m : Memory} {a : Nat} (h : s.AgreesOn m a 4) :
    (s.setMem m).memRead4 a = s.memRead4 a := by
  simp only [State.memRead4, State.memRead2_setMem (h.part (b := a) (k := 2) le_rfl (by omega)),
    State.memRead2_setMem (h.part (b := a + 2) (k := 2) (by omega) (by omega))]

/-! ### The operations of a turn -/

theorem State.fold1_setMem {s : State} {m : Memory} (h : s.AgreesOn m s.ptr 1) (f : Word → Byte → Word) :
    (s.setMem m).fold1 f = (s.fold1 f).setMem m := by
  have hm : (s.setMem m).memRead1 (s.setMem m).ptr = s.memRead1 s.ptr := State.memRead1_setMem h
  simp only [State.fold1, hm]
  split <;> rfl

theorem State.fold2_setMem {s : State} {m : Memory} (h : s.AgreesOn m s.ptr 2) (f : Word → Half → Word) :
    (s.setMem m).fold2 f = (s.fold2 f).setMem m := by
  have hm : (s.setMem m).memRead2 (s.setMem m).ptr = s.memRead2 s.ptr := State.memRead2_setMem h
  simp only [State.fold2, hm]
  split <;> rfl

theorem State.fold4_setMem {s : State} {m : Memory} (h : s.AgreesOn m s.ptr 4) (f : Word → Word → Word) :
    (s.setMem m).fold4 f = (s.fold4 f).setMem m := by
  have hm : (s.setMem m).memRead4 (s.setMem m).ptr = s.memRead4 s.ptr := State.memRead4_setMem h
  simp only [State.fold4, hm]
  split <;> rfl

theorem State.fold8_setMem {s : State} {m : Memory} (h : s.AgreesOn m s.ptr 8) (f : Word → Word → Word → Word) :
    (s.setMem m).fold8 f = (s.fold8 f).setMem m := by
  have h1 : s.AgreesOn m s.ptr 4 := h.part le_rfl (by omega)
  have h2 : s.AgreesOn m (s.ptr + 4) 4 := h.part (by omega) (by omega)
  have hm1 : (s.setMem m).memRead4 (s.setMem m).ptr = s.memRead4 s.ptr := State.memRead4_setMem h1
  have hm2 : (s.setMem m).memRead4 ((s.setMem m).ptr + 4) = s.memRead4 (s.ptr + 4) := State.memRead4_setMem h2
  simp only [State.fold8, hm1, hm2]
  split
  · rfl
  · split <;> rfl

theorem State.complete_setMem (s : State) (m : Memory) : (s.setMem m).complete = s.complete.setMem m := by
  unfold State.complete
  by_cases hc : s.busy = true ∧ s.len = 0
  · rw [if_pos hc]
    exact if_pos hc
  · rw [if_neg hc]
    exact if_neg hc

theorem State.wrapper_setMem (s u : State) (m : Memory) :
    (s.setMem m).wrapper (u.setMem m) = mapNext (State.setMem · m) (s.wrapper u) := by
  unfold State.wrapper
  by_cases hw : s.params.hwBuild = true ∧ s.params.hwcap = true
  · rw [if_pos hw]
    exact if_pos hw
  · rw [if_neg hw]
    exact if_neg hw

/-- The completion test after a micro-operation that commutes with the exchange. -/
theorem mapNext_complete_setMem (m : Memory) (o : Host.Outcome State Fault Refusal) :
    mapNext State.complete (mapNext (State.setMem · m) o) = mapNext (State.setMem · m) (mapNext State.complete o) := by
  cases o with
  | next u => exact congrArg _ (u.complete_setMem m)
  | fault r => rfl
  | refused r => rfl

/-! ### The turn -/

/-- The select code does not depend on memory, so a turn commutes with the exchange when its micro-operation does. -/
theorem engineStep_setMem_of_exec {s : State} {m : Memory} {i : Instr} (hb : s.busy = true)
    (hd : decode (.uop s.nextUop) = .ok i) (he : exec i (s.setMem m) = mapNext (State.setMem · m) (exec i s)) :
    engineStep (s.setMem m) = mapNext (State.setMem · m) (engineStep s) := by
  rw [engineStep_busy hb hd, engineStep_busy (s := s.setMem m) hb hd, he, mapNext_complete_setMem]

/-- The micro-operation selected reads inside the rest of the buffer (R50, R58, R143, R146). -/
theorem engineStep_setMem {s : State} {m : Memory} (h : s.Inv) (hb : s.busy = true)
    (hm : s.AgreesOn m s.ptr s.len) : engineStep (s.setMem m) = mapNext (State.setMem · m) (engineStep s) := by
  have hpart {n : Nat} (hn : n ≤ s.len) : s.AgreesOn m s.ptr n := hm.part le_rfl (by omega)
  have hl := hpart (h.remaining hb)
  rcases s.decode_nextUop_cases with ⟨-, -, hd⟩ | ⟨-, -, hn, hd⟩ | ⟨-, hn, hd⟩ | ⟨-, hn, -, hd⟩ | ⟨-, -, hd⟩ <;>
    refine engineStep_setMem_of_exec hb hd ?_
  · exact congrArg _ (State.fold1_setMem hl _)
  · exact congrArg _ (State.fold8_setMem (hpart hn) _)
  · exact (congrArg _ (State.fold4_setMem (hpart hn) _)).trans (s.wrapper_setMem _ m)
  · exact (congrArg _ (State.fold2_setMem (hpart hn) _)).trans (s.wrapper_setMem _ m)
  · exact (congrArg _ (State.fold1_setMem hl _)).trans (s.wrapper_setMem _ m)

/-- Settles O59: the turn with the other memory is the turn, with the other memory. -/
theorem onlyTheBufferMatters : Obligations.OnlyTheBufferMatters := by
  intro s t m h hb hm ht
  have hstep := engineStep_setMem h hb hm
  rw [ht] at hstep
  exact hstep

end Sys2Proof.Machine
end

section
/-! The decoder and the encoder are inverse to each other, said once for the code words (`decode_eq_ok_iff`) and once
for their bytes (`wordOfBytes_eq_ok_iff`). The statements about the fields and the maps of R81 to R86 are read off the
first, the statement about bytes off both. -/

namespace Sys2Proof.Machine

/-! ### Code words -/

/-- The round trip holds of every constructor (R83, R85). -/
theorem roundtrip_statement (i : Instr) : Laws.Roundtrip.Statement i := by
  cases i with
  | nop => exact Laws.Roundtrip.nop
  | updateSw => exact Laws.Roundtrip.updateSw
  | updateHw => exact Laws.Roundtrip.updateHw
  | clrerr => exact Laws.Roundtrip.clrerr
  | tbyte => exact Laws.Roundtrip.tbyte
  | slice8 => exact Laws.Roundtrip.slice8
  | crc32B => exact Laws.Roundtrip.crc32B
  | crc32H => exact Laws.Roundtrip.crc32H
  | crc32W => exact Laws.Roundtrip.crc32W

theorem decode_encode (i : Instr) : decode (encode i) = .ok i := by
  obtain ⟨-, hd, -⟩ := roundtrip_statement i
  exact hd

theorem encode_wf (i : Instr) : (encode i).wf = true := by
  obtain ⟨hwf, -, -⟩ := roundtrip_statement i
  exact hwf

/-- The micro-operation map of R85: five codes, and the other three are reserved (R86). -/
theorem decode_uop_cases (u : BitVec 3) :
    (∃ i, .uop u = encode i ∧ decode (.uop u) = .ok i) ∨
    (u ∈ [0b001#3, 0b010#3, 0b111#3] ∧ decode (.uop u) = .error (.reservedUop u)) := by
  have hall : ∀ v : BitVec 3,
      v ∈ [0b000#3, 0b011#3, 0b100#3, 0b101#3, 0b110#3] ∨ v ∈ [0b001#3, 0b010#3, 0b111#3] := by decide
  rcases hall u with hu | hu
  · simp only [List.mem_cons, List.not_mem_nil, or_false] at hu
    rcases hu with rfl | rfl | rfl | rfl | rfl
    · exact .inl ⟨.tbyte, rfl, rfl⟩
    · exact .inl ⟨.slice8, rfl, rfl⟩
    · exact .inl ⟨.crc32B, rfl, rfl⟩
    · exact .inl ⟨.crc32H, rfl, rfl⟩
    · exact .inl ⟨.crc32W, rfl, rfl⟩
  · refine .inr ⟨hu, ?_⟩
    simp only [List.mem_cons, List.not_mem_nil, or_false] at hu
    rcases hu with rfl | rfl | rfl <;> rfl

/-- A code word that decodes is the code word of what it decodes to. -/
theorem eq_encode_of_decode {cw : CodeWord} {i : Instr} (h : decode cw = .ok i) : cw = encode i := by
  cases cw with
  | cmd w =>
    rcases decode_cmd_cases w with ⟨rfl, hd⟩ | ⟨rfl, hd⟩ | ⟨rfl, hd⟩ | ⟨rfl, hd⟩ | ⟨-, -, -, -, hd⟩ <;>
      cases hd.symm.trans h <;> rfl
  | uop u =>
    rcases decode_uop_cases u with ⟨j, he, hd⟩ | ⟨-, hd⟩ <;> cases hd.symm.trans h
    exact he

/-- A code word decodes to an instruction exactly when it is the instruction's (R80, R83, R85). -/
theorem decode_eq_ok_iff {cw : CodeWord} {i : Instr} : decode cw = .ok i ↔ cw = encode i :=
  ⟨eq_encode_of_decode, fun h => h ▸ decode_encode i⟩

/-! ### Bytes -/

/-- A value whose bits from `k` on are zero is its low `k` bits, extended. -/
theorem eq_setWidth_iff {n k : Nat} {x : BitVec (n + k)} {u : BitVec k} :
    x = u.setWidth (n + k) ↔ x.extractLsb' k n = 0#n ∧ x.extractLsb' 0 k = u := by
  have hu : u.setWidth (n + k) = 0#n ++ u := by
    rw [BitVec.setWidth_eq_append (Nat.le_add_left k n)]
    simp
  rw [hu]
  constructor
  · rintro rfl
    exact ⟨BitVec.extractLsb'_append_eq_left, BitVec.extractLsb'_append_eq_right⟩
  · rintro ⟨hhigh, hlow⟩
    calc x = x.extractLsb' k n ++ x.extractLsb' 0 k :=
          ((BitVec.extractLsb'_append_extractLsb'_eq_extractLsb' (Nat.zero_add k).symm).trans
            BitVec.extractLsb'_eq_self).symm
      _ = 0#n ++ u := congrArg₂ (· ++ ·) hhigh hlow

/-- The bytes of a command word, the last one highest, make the little-endian word (log entry 5). -/
theorem append_bytes_eq_le32 (b0 b1 b2 b3 : Byte) : b3 ++ b2 ++ b1 ++ b0 = le32 b0 b1 b2 b3 :=
  BitVec.append_assoc

/-- A list of bytes holds a code word exactly when it is the code word's bytes: for a `UOP` byte by its high bits and
its code, for a command word byte by byte. -/
theorem wordOfBytes_eq_ok_iff {bs : List Byte} {cw : CodeWord} : wordOfBytes bs = .ok cw ↔ bs = bytesOfWord cw := by
  unfold wordOfBytes
  split
  next b =>
    cases cw with
    | cmd w => split <;> simp [bytesOfWord]
    | uop u =>
      have hb : b = u.setWidth 8 ↔ b.extractLsb' 3 5 = 0#5 ∧ b.extractLsb' 0 3 = u := eq_setWidth_iff (n := 5) (k := 3)
      split
      next h => simp [bytesOfWord, hb, h]
      next h => simp [bytesOfWord, hb, h]
  next b0 b1 b2 b3 =>
    cases cw with
    | cmd w =>
      rw [append_bytes_eq_le32]
      simp [bytesOfWord, eq_comm (b := w), eq_le32_iff, byteOf]
    | uop u => simp [bytesOfWord]
  next h1 h4 =>
    cases cw with
    | cmd w => simpa [bytesOfWord] using h4 _ _ _ _
    | uop u => simpa [bytesOfWord] using h1 _

/-- A list of bytes decodes through the code word it holds. -/
theorem decodeBytes_eq_ok_iff {bs : List Byte} {i : Instr} :
    decodeBytes bs = .ok i ↔ ∃ cw, wordOfBytes bs = .ok cw ∧ decode cw = .ok i := by
  unfold decodeBytes
  cases wordOfBytes bs <;> simp

/-- Settles O4: the list is the bytes of a code word, and the code word is the instruction's. -/
theorem decodeEncodeAgreeOnBytes : Obligations.DecodeEncodeAgreeOnBytes := by
  intro bs i
  simp only [decodeBytes_eq_ok_iff, wordOfBytes_eq_ok_iff, decode_eq_ok_iff, exists_eq_right, encodeBytes]

/-! ### Fields -/

/-- A command word whose bits 31:3 are zero is one of eight, and of these the legal fields leave the four of R83. -/
theorem exists_eq_encode_of_cmd_wf {w : Word} (h : (CodeWord.cmd w).wf = true) : ∃ i, .cmd w = encode i := by
  have hhigh : w.extractLsb' 3 29 = 0#29 := eq_of_beq (Bool.and_elim_left h)
  have hlow : w = (w.extractLsb' 0 3).setWidth 32 := eq_setWidth_iff.mpr ⟨hhigh, rfl⟩
  have hall : ∀ u : BitVec 3, (CodeWord.cmd (u.setWidth 32)).wf = true →
      ∃ i ∈ [Instr.nop, .updateSw, .updateHw, .clrerr], .cmd (u.setWidth 32) = encode i := by decide
  obtain ⟨i, -, hi⟩ := hall (w.extractLsb' 0 3) (hlow ▸ h)
  exact ⟨i, hlow ▸ hi⟩

/-- The reserved codes have no legal fields (R82, R86). -/
theorem exists_eq_encode_of_uop_wf {u : BitVec 3} (h : (CodeWord.uop u).wf = true) : ∃ i, .uop u = encode i := by
  rcases decode_uop_cases u with ⟨i, hi, -⟩ | ⟨hu, -⟩
  · exact ⟨i, hi⟩
  · have hreserved : ∀ v ∈ [0b001#3, 0b010#3, 0b111#3], (CodeWord.uop v).wf = false := by decide
    exact nomatch (hreserved u hu).symm.trans h

/-- Settles O3: both sides say that the code word is some instruction's. -/
theorem legalFieldsAreTheDecodableWords : Obligations.LegalFieldsAreTheDecodableWords := by
  intro cw
  simp only [decode_eq_ok_iff]
  constructor
  · intro h
    cases cw with
    | cmd w => exact exists_eq_encode_of_cmd_wf h
    | uop u => exact exists_eq_encode_of_uop_wf h
  · rintro ⟨i, rfl⟩
    exact encode_wf i

/-! ### The two maps -/

/-- Settles O1: the words are the encodings of the commands, and the rejects are the last case of the command map. -/
theorem commandMapMatchesAllBits : Obligations.CommandMapMatchesAllBits := by
  refine ⟨fun v i => ?_, fun v h0 h1 h3 h4 => ?_⟩
  · rw [decode_eq_ok_iff]
    cases i <;> simp [encode]
  · rcases decode_cmd_cases v with ⟨h, -⟩ | ⟨h, -⟩ | ⟨h, -⟩ | ⟨h, -⟩ | ⟨-, -, -, -, hd⟩
    · exact absurd h h0
    · exact absurd h h1
    · exact absurd h h3
    · exact absurd h h4
    · exact hd

/-- Settles O2: a select code that decodes is its row's code, and its row's columns are computed from it. -/
theorem uopMapWithSizes : Obligations.UopMapWithSizes := by
  refine ⟨fun u i => ?_, by decide⟩
  rw [decode_eq_ok_iff]
  constructor
  · intro h
    cases i <;> cases h <;> decide
  · simp only [List.mem_cons, Prod.mk.injEq, List.not_mem_nil, or_false]
    rintro (⟨rfl, -, -, rfl, -⟩ | ⟨rfl, -, -, rfl, -⟩ | ⟨rfl, -, -, rfl, -⟩ | ⟨rfl, -, -, rfl, -⟩ |
      ⟨rfl, -, -, rfl, -⟩) <;> rfl

/-- Settles O5: each word is a literal, so the decoder is evaluated on it. -/
theorem tableRowsDecode : Obligations.TableRowsDecode := by
  unfold Obligations.TableRowsDecode
  decide

end Sys2Proof.Machine
end

section
/-! What the next event makes of a step: the meaning of a command or of a micro-operation where one runs, and in a legal
state always a next state. -/

namespace Sys2Proof.Machine

/-- Settles O39: the step takes the event, and a write of `CMD` that is not discarded runs the decoded command. -/
theorem stepRunsTheCommand : Obligations.StepRunsTheCommand := by
  intro s v rest i hb he hi hd
  rw [step_of_cons hi, handle_write, hostWrite_cmd]
  exact commandWrite_decoded hb he hd

/-- The step is the engine's turn when nothing is waiting or the turn is the next event (R214; log entry 2). -/
theorem step_eq_engineStep {s t : State}
    (h : (s.inbox = [] ∧ t = s) ∨ ∃ rest, s.inbox = .engine :: rest ∧ t = { s with inbox := rest }) :
    step s = engineStep t := by
  rcases h with ⟨hi, rfl⟩ | ⟨rest, hi, rfl⟩
  · exact step_of_nil hi
  · exact step_of_cons hi

/-- Settles O40: the turn is the micro-operation and then the completion test, in the state that has taken the event. -/
theorem stepRunsTheMicroOperation : Obligations.StepRunsTheMicroOperation := by
  intro s t i hb ht hd
  have hturn : engineStep t = mapNext State.complete (exec i t) := by
    rcases ht with ⟨-, rfl⟩ | ⟨rest, -, rfl⟩
    · exact engineStep_busy hb hd
    · exact engineStep_busy (s := { s with inbox := rest }) hb hd
  rw [step_eq_engineStep ht, hturn]
  cases exec i t <;> rfl

/-- Every word written to `CMD` has a next state: it is discarded, a command, or an illegal command (R113, R177). -/
theorem exists_commandWrite (s : State) (w : Word) : ∃ t, commandWrite w s = .next t := by
  by_cases hb : s.busy = true
  · exact ⟨s, commandWrite_busy w hb⟩
  rw [Bool.not_eq_true] at hb
  by_cases hd : s.err = true ∧ w ≠ 0x00000004#32
  · exact ⟨s, commandWrite_error hb hd.1 hd.2⟩
  have hrun {i : Instr} (hi : decode (.cmd w) = .ok i) : commandWrite w s = exec i s :=
    commandWrite_decoded hb (fun he => by_contra fun hw => hd ⟨he, hw⟩) hi
  rcases decode_cmd_cases w with ⟨-, hi⟩ | ⟨-, hi⟩ | ⟨-, hi⟩ | ⟨-, hi⟩ | ⟨-, -, -, h4, hi⟩
  · exact ⟨_, hrun hi⟩
  · exact ⟨_, hrun hi⟩
  · rcases execUpdateHw_cases s with ⟨-, -, h⟩ | ⟨-, h⟩ | ⟨-, -, h⟩ <;> exact ⟨_, (hrun hi).trans h⟩
  · exact ⟨_, hrun hi⟩
  · exact ⟨_, commandWrite_illegal hb (by simpa [h4] using hd) hi⟩

/-- No host write faults or is refused (R113, R170). -/
theorem exists_hostWrite (s : State) (r : Reg) (v : Nat) : ∃ t, hostWrite r v s = .next t := by
  cases r with
  | cmd => exact exists_commandWrite s _
  | crc | ptr | len | status | reserved5 | reserved6 | reserved7 => exact ⟨_, rfl⟩

/-- In a legal state every event that names existing bytes has a next state. -/
theorem exists_handle {s : State} (h : s.Inv) {e : Event} (he : e.wf s.params = true) : ∃ t, handle e s = .next t := by
  cases e with
  | read r => exact ⟨_, handle_read r s⟩
  | write r v => exact exists_hostWrite s r v
  | wait => exact ⟨_, handle_wait s⟩
  | engine => exact exists_engineStep h
  | reset => exact ⟨_, handle_reset s⟩
  | poke a b => exact ⟨_, handle_poke_inside b (of_decide_eq_true he)⟩

/-- Settles O44: with nothing waiting the step is the engine's turn, else it is the effect of the event it takes. -/
theorem invariantStatesStepSafely : Obligations.InvariantStatesStepSafely := by
  intro s h
  refine ⟨fun he => ?_, fun a b rest hi ha => ?_⟩
  · cases hi : s.inbox with
    | nil =>
      rw [step_of_nil hi]
      exact exists_engineStep h
    | cons e rest =>
      rw [step_of_cons hi]
      exact exists_handle (h.inbox rest) (he e rest hi)
  · rw [step_of_cons hi]
    exact handle_poke_outside b ha

end Sys2Proof.Machine
end

section
/-! Every fold of the datapath is the fold of its bytes in address order: the shift register of R101, run for whole
bytes, is one table lookup for each byte (R102, R104), so the lookups of a bulk step are two word folds. -/

namespace Sys2Proof.Machine

/-! ### Shifts by lookups -/

/-- Eight shifts are one lookup in table 0 and a shift by a byte (R101). -/
theorem bitSteps_eight (c : Word) : bitSteps 8 c = table 0 (byteOf c 0) ^^^ (c >>> 8) := by
  have hrest : bitSteps 8 ((c >>> 8) <<< 8) = c >>> 8 := by
    rw [bitSteps_of_low_zero _ _ fun i hi => by simp [hi]]
    apply BitVec.eq_of_getLsbD_eq
    intro i hi
    simpa using BitVec.lt_of_getLsbD
  calc bitSteps 8 c = bitSteps 8 (zext (byteOf c 0) ^^^ ((c >>> 8) <<< 8)) := by rw [← low_byte_split]
    _ = table 0 (byteOf c 0) ^^^ (c >>> 8) := by rw [bitSteps_xor, hrest]; rfl

/-- The next table is eight more shifts of this one (R102). -/
theorem bitSteps_table (n k : Nat) (i : Byte) : bitSteps (8 * n) (table k i) = table (n + k) i := by
  induction n with
  | zero => rw [Nat.zero_add]; rfl
  | succ n ih =>
    rw [Nat.mul_succ, bitSteps_add, ih, bitSteps_eight, Nat.succ_add]
    exact BitVec.xor_comm ..

/-- Of the shifts of `n + 1` bytes, one lookup does the low byte's (R104). -/
theorem bitSteps_lookup (n : Nat) (x : Word) :
    bitSteps (8 * (n + 1)) x = table n (byteOf x 0) ^^^ bitSteps (8 * n) (x >>> 8) := by
  rw [Nat.mul_succ, Nat.add_comm, bitSteps_add, bitSteps_eight, bitSteps_xor, bitSteps_table, Nat.add_zero]

theorem byteOf_shiftRight (x : Word) (k : Nat) : byteOf (x >>> (8 * k)) 0 = byteOf x k := by
  apply BitVec.eq_of_getLsbD_eq
  intro i hi
  simp [byteOf, hi]

theorem bitSteps_zero_word (n : Nat) : bitSteps n 0#32 = 0#32 := by
  rw [bitSteps_of_low_zero _ _ fun i _ => BitVec.getLsbD_zero, BitVec.zero_ushiftRight]

/-- The shifts of four bytes and more by four lookups (R104, R122, R131). -/
theorem bitSteps_four_lookups (n : Nat) (x : Word) :
    bitSteps (8 * (n + 4)) x =
      table (n + 3) (byteOf x 0) ^^^ table (n + 2) (byteOf x 1) ^^^ table (n + 1) (byteOf x 2) ^^^
        table n (byteOf x 3) := by
  have hgone : x >>> 32 = 0#32 := BitVec.ushiftRight_eq_zero le_rfl
  rw [bitSteps_lookup, bitSteps_lookup, bitSteps_lookup, bitSteps_lookup]
  simp only [← BitVec.shiftRight_add, Nat.reduceAdd, hgone, bitSteps_zero_word, BitVec.xor_zero,
    byteOf_shiftRight x 1, byteOf_shiftRight x 2, byteOf_shiftRight x 3, BitVec.xor_assoc]

/-! ### The word folds -/

/-- A byte fold takes the low byte of the operand off the shift register (R130). -/
theorem bitSteps_add_eight_xor (n : Nat) (c w : Word) :
    bitSteps (8 + n) (c ^^^ w) = bitSteps n (tbyteFn c (byteOf w 0) ^^^ (w >>> 8)) := by
  rw [bitSteps_add, bitSteps_eight, tbyteFn, byteOf_xor, byteOf_xor, byteOf_zext, BitVec.ushiftRight_xor_distrib,
    BitVec.xor_assoc]

/-- The 4-byte fold of the wrapper is 32 shifts, one byte after the other (R122). -/
theorem crc32WFn_eq_bitSteps (c w : Word) : crc32WFn c w = bitSteps 32 (c ^^^ w) := by
  have hgone : w >>> 32 = 0#32 := BitVec.ushiftRight_eq_zero le_rfl
  have h := (bitSteps_add_eight_xor 24 c w).trans <| (bitSteps_add_eight_xor 16 _ _).trans <|
    (bitSteps_add_eight_xor 8 _ _).trans (bitSteps_add_eight_xor 0 _ _)
  simp only [← BitVec.shiftRight_add, Nat.reduceAdd, hgone, BitVec.xor_zero, byteOf_shiftRight w 1,
    byteOf_shiftRight w 2, byteOf_shiftRight w 3] at h
  exact h.symm

/-- A bulk step is two 4-byte folds (R122, R131). -/
theorem slice8Fn_eq_crc32WFn (c w1 w2 : Word) : slice8Fn c w1 w2 = crc32WFn (crc32WFn c w1) w2 := by
  have hfirst : sliceTerm (c ^^^ w1) = bitSteps 32 (crc32WFn c w1) := by
    rw [crc32WFn_eq_bitSteps, ← bitSteps_add]
    exact (bitSteps_four_lookups 4 _).symm
  have hsecond := bitSteps_four_lookups 0 w2
  rw [crc32WFn_eq_bitSteps _ w2, bitSteps_xor, ← hfirst, hsecond, slice8Fn]
  simp only [BitVec.xor_assoc, Nat.zero_add]

/-! ### The folds of the bytes read -/

/-- R123 for 1 byte. -/
theorem State.memRead1_fold {s : State} {a : Nat} {b : Byte} (h : s.memRead1 a = some b) :
    ∃ bs, s.readBytes a 1 = some bs ∧ ∀ c, tbyteFn c b = fold c bs :=
  ⟨[b], State.readBytes_succ_eq_some.mpr ⟨b, [], h, rfl, rfl⟩, fun _ => rfl⟩

/-- R123 for 2 bytes. -/
theorem State.memRead2_fold {s : State} {a : Nat} {h : Half} (hm : s.memRead2 a = some h) :
    ∃ bs, s.readBytes a 2 = some bs ∧ ∀ c, crc32HFn c h = fold c bs := by
  obtain ⟨b0, b1, h0, h1, rfl⟩ := State.memRead2_eq_some.mp hm
  exact ⟨[b0, b1], by simp [State.readBytes, h0, h1], fun c => by rw [crc32HFn, le16_low, le16_high]; rfl⟩

/-- R123 for 4 bytes. -/
theorem State.memRead4_fold {s : State} {a : Nat} {w : Word} (hm : s.memRead4 a = some w) :
    ∃ bs, s.readBytes a 4 = some bs ∧ ∀ c, crc32WFn c w = fold c bs := by
  obtain ⟨b0, b1, b2, b3, h0, h1, h2, h3, rfl⟩ := State.memRead4_eq_some.mp hm
  refine ⟨[b0, b1, b2, b3], by simp [State.readBytes, h0, h1, h2, h3], fun c => ?_⟩
  rw [crc32WFn, byteOf_le32_0, byteOf_le32_1, byteOf_le32_2, byteOf_le32_3]
  rfl

/-- What a micro-operation that consumes `n` bytes leaves of `s` where they are served: their fold in `CRC`, and `PTR`
and `LEN` past them. -/
def State.FoldsNext (s : State) (n : Nat) (u : State) : Prop :=
  ∀ bs, s.readBytes s.ptr n = some bs → ∃ as, u = (s.noteReads as).retire (fold s.crc bs) n

theorem State.FoldsNext.of_served {s u : State} {n : Nat} {as : List Access} {bs : List Byte}
    (hbs : s.readBytes s.ptr n = some bs) (hu : u = (s.noteReads as).retire (fold s.crc bs) n) : s.FoldsNext n u := by
  intro xs hxs
  cases hbs.symm.trans hxs
  exact ⟨as, hu⟩

theorem State.FoldsNext.of_unserved {s u : State} {n : Nat} (h : s.readBytes s.ptr n = none) : s.FoldsNext n u :=
  fun _ hbs => nomatch h.symm.trans hbs

theorem State.fold1_foldsNext (s : State) : s.FoldsNext 1 (s.fold1 tbyteFn) := by
  rcases s.fold1_cases tbyteFn with ⟨b, hm, h⟩ | ⟨hm, -⟩
  · obtain ⟨bs, hbs, hf⟩ := State.memRead1_fold hm
    exact .of_served hbs (by rw [h, hf, State.noteRead_eq])
  · exact .of_unserved (State.memRead1_eq_none_iff.mp hm)

theorem State.fold2_foldsNext (s : State) : s.FoldsNext 2 (s.fold2 crc32HFn) := by
  rcases s.fold2_cases crc32HFn with ⟨v, hm, h⟩ | ⟨hm, -⟩
  · obtain ⟨bs, hbs, hf⟩ := State.memRead2_fold hm
    exact .of_served hbs (by rw [h, hf, State.noteRead_eq])
  · exact .of_unserved (State.memRead2_eq_none_iff.mp hm)

theorem State.fold4_foldsNext (s : State) : s.FoldsNext 4 (s.fold4 crc32WFn) := by
  rcases s.fold4_cases crc32WFn with ⟨w, hm, h⟩ | ⟨hm, -⟩
  · obtain ⟨bs, hbs, hf⟩ := State.memRead4_fold hm
    exact .of_served hbs (by rw [h, hf, State.noteRead_eq])
  · exact .of_unserved (State.memRead4_eq_none_iff.mp hm)

/-- A bulk step folds the bytes of its first word and then those of its second (R131, R133). -/
theorem State.fold8_foldsNext (s : State) : s.FoldsNext 8 (s.fold8 slice8Fn) := by
  have hadd := @State.readBytes_add_eq_none_iff s s.ptr 4 4
  rcases s.fold8_cases slice8Fn with ⟨w1, w2, h1, h2, h⟩ | ⟨h1, -⟩ | ⟨w1, -, h2, -⟩
  · obtain ⟨xs, hx, hf1⟩ := State.memRead4_fold h1
    obtain ⟨ys, hy, hf2⟩ := State.memRead4_fold h2
    exact .of_served (State.readBytes_add_eq_some.mpr ⟨xs, ys, hx, hy, rfl⟩)
      (by rw [h, slice8Fn_eq_crc32WFn, hf1, hf2, fold_append, State.noteRead_noteRead])
  · exact .of_unserved (hadd.mpr (.inl (State.memRead4_eq_none_iff.mp h1)))
  · exact .of_unserved (hadd.mpr (.inr (State.memRead4_eq_none_iff.mp h2)))

/-- A busy engine's turn folds the next bytes of its buffer, whichever micro-operation it drives (R143, R146). -/
theorem engineStep_foldsNext {s t : State} (hb : s.busy = true) (hl : 1 ≤ s.len) (ht : engineStep s = .next t) :
    ∃ n u, 1 ≤ n ∧ n ≤ s.len ∧ s.FoldsNext n u ∧ t = u.complete := by
  rcases s.decode_nextUop_cases with ⟨-, -, hd⟩ | ⟨-, -, hn, hd⟩ | ⟨-, hn, hd⟩ | ⟨-, hn, -, hd⟩ | ⟨-, -, hd⟩ <;>
    rw [engineStep_busy hb hd, mapNext_eq_next] at ht <;> obtain ⟨u, hu, rfl⟩ := ht
  · cases hu
    exact ⟨1, _, le_rfl, hl, s.fold1_foldsNext, rfl⟩
  · cases hu
    exact ⟨8, _, by decide, hn, s.fold8_foldsNext, rfl⟩
  · obtain ⟨-, -, rfl⟩ := State.wrapper_eq_next.mp hu
    exact ⟨4, _, by decide, hn, s.fold4_foldsNext, rfl⟩
  · obtain ⟨-, -, rfl⟩ := State.wrapper_eq_next.mp hu
    exact ⟨2, _, by decide, hn, s.fold2_foldsNext, rfl⟩
  · obtain ⟨-, -, rfl⟩ := State.wrapper_eq_next.mp hu
    exact ⟨1, _, le_rfl, hl, s.fold1_foldsNext, rfl⟩

end Sys2Proof.Machine
end

section
/-! The synchronous call of R160 through the register interface. The predicate `State.Updating` says what stays true from
the acceptance of an `UPDATE` to its end; each turn moves bytes from the rest of the buffer into `CRC`, so `WAIT` ends
with the fold (R150), and the last read yields it. -/

namespace Sys2Proof.Machine

/-! ### Runs of the machine -/

/-- Some number of steps leads from `s` to `t`. -/
def Reaches (s t : State) : Prop := ∃ k, Host.Core.run Sys2Proof.core k s = .next t

theorem Reaches.refl (s : State) : Reaches s s := ⟨0, rfl⟩

theorem Reaches.head {s t u : State} (h : step s = .next t) (htu : Reaches t u) : Reaches s u := by
  obtain ⟨k, hk⟩ := htu
  exact ⟨k + 1, (run_succ (M := Sys2Proof.core) k h).trans hk⟩

theorem Reaches.trans {s t u : State} (hst : Reaches s t) (htu : Reaches t u) : Reaches s u := by
  obtain ⟨k, hk⟩ := hst
  induction k generalizing s with
  | zero => cases hk; exact htu
  | succ k ih =>
    cases hs : step s with
    | next v => exact .head hs (ih ((run_succ (M := Sys2Proof.core) k hs).symm.trans hk))
    | fault r => simp [Host.Core.run, Sys2Proof.core, hs] at hk
    | refused r => simp [Host.Core.run, Sys2Proof.core, hs] at hk

/-- The state with other events to come. -/
def State.withInbox (s : State) (l : List Event) : State := { s with inbox := l }

theorem State.Inv.withInbox {s : State} (h : s.Inv) (l : List Event) : (s.withInbox l).Inv := h.inbox l

/-- The bytes that stand in a buffer depend on the parameters and the memory only. -/
theorem State.SameSpace.holds {s t : State} (h : s.SameSpace t) {a : Nat} {bs : List Byte} (hbs : s.holds a bs) :
    t.holds a bs :=
  (State.readBytes_congr h.params h.mem a bs.length).trans hbs

theorem State.withInbox_sameSpace (s : State) (l : List Event) : s.SameSpace (s.withInbox l) := ⟨rfl, rfl⟩

/-- A step with an event waiting is the event's effect. -/
theorem Reaches.event {s t u : State} {e : Event} {rest : List Event} (hi : s.inbox = e :: rest)
    (ht : handle e (s.withInbox rest) = .next t) (hu : Reaches t u) : Reaches s u :=
  .head ((step_of_cons hi).trans ht) hu

/-! ### An accepted `UPDATE` -/

/-- In `s` an accepted `UPDATE` has the bytes `bs` still to fold, and it is idle only when it has completed without an
error (R147, R150). -/
structure State.Updating (s : State) (bs : List Byte) : Prop where
  inv : s.Inv
  bytes : s.holds s.ptr bs
  length : bs.length = s.len
  noError : s.err = false
  completed : s.busy = false → s.done = true ∧ s.len = 0

/-- A host read takes nothing from the command (R112). -/
theorem State.Updating.hostRead {s : State} {bs : List Byte} (h : s.Updating bs) (r : Reg) :
    (s.hostRead r).Updating bs :=
  have hspace : s.SameSpace (s.hostRead r) := ⟨rfl, rfl⟩
  ⟨h.inv.hostRead r, hspace.holds h.bytes, h.length, h.noError, h.completed⟩

/-- The events still to come are not in it. -/
theorem State.Updating.withInbox {s : State} {bs : List Byte} (h : s.Updating bs) (l : List Event) :
    (s.withInbox l).Updating bs :=
  ⟨h.inv.withInbox l, (s.withInbox_sameSpace l).holds h.bytes, h.length, h.noError, h.completed⟩

/-- Acceptance starts it, over the bytes of the buffer (R141, R144, R154). -/
theorem State.Updating.accept {s : State} {bs : List Byte} (h : s.Inv) (hs : s.ready)
    (hr : s.ptr + s.len ≤ s.params.space) (hbs : s.holds s.ptr bs) (hlen : bs.length = s.len) {p : Path}
    (hp : p = .hw → s.params.hwBuild = true ∧ s.params.hwcap = true) : (s.accept p).Updating bs where
  inv := by
    have hacc : s.acceptInRange p = s.accept p := if_neg (Nat.not_lt.mpr hr)
    exact hacc ▸ h.acceptInRange hs.1 hs.2 p hp
  bytes := by
    rw [State.accept_ptr]
    exact State.SameSpace.holds ⟨s.accept_params p, s.accept_mem p⟩ hbs
  length := by rw [State.accept_len, hlen]
  noError := by rw [State.accept_err, hs.2]
  completed hb := by
    unfold State.accept at hb ⊢
    split at hb
    next h0 => rw [if_pos h0]; exact ⟨rfl, h0⟩
    next => cases hb

/-- A turn folds the first bytes of the rest into `CRC`, so the fold over the rest stays (R150). -/
theorem State.Updating.engineStep {s : State} {bs : List Byte} (h : s.Updating bs) (hb : s.busy = true) :
    ∃ t rest, engineStep s = .next t ∧ t.Updating rest ∧ fold t.crc rest = fold s.crc bs ∧
      rest.length < bs.length ∧ t.inbox = s.inbox := by
  obtain ⟨t, ht⟩ := exists_engineStep h.inv
  have hinv := h.inv.engineStep ht
  have hspace := engineStep_sameSpace ht
  obtain ⟨n, u, h1, hn, hu, rfl⟩ := engineStep_foldsNext hb (h.inv.remaining hb) ht
  have hlen : bs.length = n + (s.len - n) := h.length.trans (Nat.add_sub_cancel' hn).symm
  have hbytes : s.readBytes s.ptr (n + (s.len - n)) = some bs := by rw [← hlen]; exact h.bytes
  obtain ⟨xs, ys, hx, hy, rfl⟩ := State.readBytes_add_eq_some.mp hbytes
  have hysl : ys.length = s.len - n := State.readBytes_length hy
  obtain ⟨as, rfl⟩ := hu xs hx
  have hnoted : (s.noteReads as).Inv := h.inv.accesses _
  refine ⟨_, ys, ht, ?_, by simp [State.noteReads, fold_append], by rw [hlen]; omega, by simp [State.noteReads]⟩
  rcases Nat.eq_or_lt_of_le hn with hlast | hmore
  · rw [hnoted.retire_last hb _ hlast] at hinv ⊢
    have hnil : ys = [] := List.eq_nil_of_length_eq_zero (by omega)
    subst hnil
    exact ⟨hinv, rfl, rfl, h.noError, fun _ => ⟨rfl, rfl⟩⟩
  · rw [hnoted.retire_more hb _ hmore] at hinv hspace ⊢
    exact ⟨hinv, hspace.holds (hysl ▸ hy), hysl, h.noError, fun hi => nomatch hi.symm.trans hb⟩

/-! ### `WAIT` -/

theorem State.waitPoll_of_idle {s : State} (hb : s.busy = false) : s.waitPoll = s.hostRead .status := by
  simp [State.waitPoll, hb]

theorem State.waitPoll_of_busy {s : State} (hb : s.busy = true) :
    s.waitPoll = (s.hostRead .status).withInbox (.engine :: .wait :: s.inbox) := by
  simp [State.waitPoll, State.withInbox, hb]

/-- While busy, two steps of a `WAIT` are a poll and an engine's turn, and the `WAIT` goes on (R88; log entry 7). -/
theorem Reaches.wait_busy {s t u : State} {rest : List Event} (hi : s.inbox = .wait :: rest) (hb : s.busy = true)
    (ht : engineStep ((s.hostRead .status).withInbox (.wait :: rest)) = .next t) (hu : Reaches t u) : Reaches s u := by
  have hpoll : (s.withInbox rest).waitPoll = (s.hostRead .status).withInbox (.engine :: .wait :: rest) :=
    State.waitPoll_of_busy (s := s.withInbox rest) hb
  refine .event hi (handle_wait _) ?_
  rw [hpoll]
  exact .event (e := .engine) rfl ht hu

/-- The `WAIT` of an accepted `UPDATE` ends with the engine idle and every byte folded into `CRC`: by induction on the
number of bytes left. -/
theorem State.Updating.wait {s : State} {bs : List Byte} (h : s.Updating bs) {rest : List Event}
    (hi : s.inbox = .wait :: rest) :
    ∃ t, Reaches s t ∧ t.inbox = rest ∧ t.crc = fold s.crc bs ∧ t.ready ∧ t.done = true := by
  induction hk : bs.length using Nat.strong_induction_on generalizing s bs with
  | _ k ih =>
    cases hb : s.busy with
    | false =>
      obtain ⟨hd, h0⟩ := h.completed hb
      have hnil : bs = [] := List.eq_nil_of_length_eq_zero (h.length.trans h0)
      subst hnil
      have hpoll : (s.withInbox rest).waitPoll = (s.withInbox rest).hostRead .status := State.waitPoll_of_idle hb
      exact ⟨_, .event hi (handle_wait _) (.refl _), by rw [hpoll]; exact ⟨rfl, rfl, ⟨hb, h.noError⟩, hd⟩⟩
    | true =>
      obtain ⟨t, ys, ht, hys, hfold, hlt, hti⟩ := ((h.hostRead .status).withInbox (.wait :: rest)).engineStep hb
      obtain ⟨u, hu, hui, huc, hend⟩ := ih _ (hk ▸ hlt) hys hti rfl
      exact ⟨u, .wait_busy hi hb ht hu, hui, huc.trans hfold, hend⟩

/-! ### The call -/

/-- An idle engine takes a write of a datapath register (R113). -/
theorem Reaches.writeCrc {s u : State} {c : Word} {rest : List Event} (hb : s.busy = false)
    (hi : s.inbox = .write .crc c.toNat :: rest) (hu : Reaches ((s.withInbox rest).setCrc c) u) : Reaches s u := by
  refine .event hi ?_ hu
  simp [hostWrite, State.withInbox, hb]

theorem Reaches.writePtr {s u : State} {a : Nat} {rest : List Event} (hb : s.busy = false)
    (hi : s.inbox = .write .ptr a :: rest) (hu : Reaches ((s.withInbox rest).setPtr a) u) : Reaches s u := by
  refine .event hi ?_ hu
  simp [hostWrite, State.withInbox, hb]

theorem Reaches.writeLen {s u : State} {n : Nat} {rest : List Event} (hb : s.busy = false)
    (hi : s.inbox = .write .len n :: rest) (hu : Reaches ((s.withInbox rest).setLen n) u) : Reaches s u := by
  refine .event hi ?_ hu
  simp [hostWrite, State.withInbox, hb]

/-- The path of the host's `UPDATE` is the hardware path only where the wrapper is usable (R114, R144, R216). -/
theorem State.usable_of_pathOf_hw {s : State} {hw : Bool} (h : s.mayUse hw) (hp : s.pathOf hw = .hw) :
    s.params.hwBuild = true ∧ s.params.hwcap = true := by
  cases hw with
  | false => simp [State.pathOf] at hp
  | true =>
    have hbuild : s.params.hwBuild = true := by simpa [State.pathOf] using hp
    exact ⟨hbuild, h rfl hbuild⟩

/-- An `UPDATE` that the host may issue, over a buffer in range, is accepted on its path (R141, R144, R114). -/
theorem exec_updateInstr {s : State} {hw : Bool} (h : s.mayUse hw) (hr : s.ptr + s.len ≤ s.params.space) :
    exec (updateInstr hw) s = .next (s.accept (s.pathOf hw)) := by
  have hacc (p : Path) : s.acceptInRange p = s.accept p := if_neg (Nat.not_lt.mpr hr)
  cases hw with
  | false => exact congrArg _ (hacc .sw)
  | true =>
    have hpath : s.pathOf true = if s.params.hwBuild then .hw else .sw := rfl
    rcases execUpdateHw_cases s with ⟨hb, hc, -⟩ | ⟨hb, he⟩ | ⟨hb, -, he⟩
    · exact nomatch hc.symm.trans (h rfl hb)
    · simpa [updateInstr, hpath, hb, hacc] using he
    · simpa [updateInstr, hpath, hb, hacc] using he

/-- The host line of an `UPDATE`, to a ready engine, runs it (R87, R160). -/
theorem handle_issueUpdate {s : State} (hs : s.ready) (hw : Bool) :
    handle (issueUpdate hw) s = exec (updateInstr hw) s := by
  obtain ⟨hb, he⟩ := hs
  cases hw with
  | false => exact commandWrite_decoded hb (by simp [he]) rfl
  | true => exact commandWrite_decoded hb (by simp [he]) rfl

theorem State.readValue_crc_idle {s : State} (hb : s.busy = false) : s.readValue .crc = s.crc.toNat := by
  simp [State.readValue, State.readData, hb]

/-- The call has returned `v` (R160): the engine is idle without an error, `v` is in `CRC`, and it is what the host has
read last. -/
structure State.Returned (t : State) (v : Word) (rest : List Event) : Prop where
  inbox : t.inbox = rest
  crc : t.crc = v
  read : t.outbox.getLast? = some ⟨.crc, v.toNat⟩
  ready : t.ready
  done : t.done = true

/-- The host's `RD CRC` after the `WAIT` returns the value. -/
theorem State.Returned.of_read {t : State} {v : Word} {rest : List Event} (hi : t.inbox = .read .crc :: rest)
    (hc : t.crc = v) (hr : t.ready) (hd : t.done = true) : ∃ u, Reaches t u ∧ u.Returned v rest := by
  have hv : (t.withInbox rest).readValue .crc = v.toNat := by
    rw [State.readValue_crc_idle (s := t.withInbox rest) hr.1, ← hc]
    rfl
  refine ⟨_, .event hi (handle_read .crc _) (.refl _), rfl, hc, ?_, hr, hd⟩
  rw [State.hostRead_outbox, hv, List.getLast?_concat]

/-- The command, the `WAIT` and the read, once the registers point at the buffer (R160). -/
theorem exists_returned_of_issueUpdate {s : State} {a : Nat} {hw : Bool} {bs : List Byte} {rest : List Event}
    (h : s.Inv) (hs : s.ready) (hmay : s.mayUse hw) (hptr : s.ptr = a) (hlen : s.len = bs.length)
    (hr : a + bs.length ≤ s.params.space) (hbs : s.holds a bs)
    (hi : s.inbox = issueUpdate hw :: .wait :: .read .crc :: rest) :
    ∃ t, Reaches s t ∧ t.Returned (fold s.crc bs) rest := by
  subst hptr
  rw [← hlen] at hr
  have hinv := h.withInbox (.wait :: .read .crc :: rest)
  have hexec := (handle_issueUpdate (s := s.withInbox (.wait :: .read .crc :: rest)) hs hw).trans
    (exec_updateInstr hmay hr)
  have hupd := State.Updating.accept hinv hs hr ((s.withInbox_sameSpace _).holds hbs) hlen.symm
    (State.usable_of_pathOf_hw hmay)
  obtain ⟨t, hwait, hti, htc, hready, hdone⟩ := hupd.wait (State.accept_inbox _ _)
  obtain ⟨u, hread, hret⟩ := State.Returned.of_read hti (htc.trans (by rw [State.accept_crc])) hready hdone
  exact ⟨u, .event hi hexec (hwait.trans hread), hret⟩

/-- `CONTINUE` (R160): the host points a ready engine at the buffer and issues the command. -/
theorem exists_returned_of_seqContinue {s : State} {a : Nat} {hw : Bool} {bs : List Byte} {rest : List Event}
    (h : s.Inv) (hs : s.ready) (hmay : s.mayUse hw) (ha : a < s.params.space) (hn : bs.length < s.params.space)
    (hr : a + bs.length ≤ s.params.space) (hbs : s.holds a bs) (hi : s.inbox = seqContinue a bs.length hw ++ rest) :
    ∃ t, Reaches s t ∧ t.Returned (fold s.crc bs) rest := by
  have hb : s.busy = false := hs.1
  have hinv := (((h.withInbox (.write .len bs.length :: issueUpdate hw :: .wait :: .read .crc :: rest)).setPtr hb
    a).withInbox (issueUpdate hw :: .wait :: .read .crc :: rest)).setLen hb bs.length
  obtain ⟨t, ht, hret⟩ := exists_returned_of_issueUpdate hinv hs hmay (Nat.mod_eq_of_lt ha) (Nat.mod_eq_of_lt hn) hr
    (State.SameSpace.holds (s := s) ⟨by rfl, by rfl⟩ hbs) rfl
  exact ⟨t, .writePtr hb hi (.writeLen hb rfl ht), hret⟩

/-- Settles O58: `UPDATE` is the write of `CRC` and then `CONTINUE`. -/
theorem synchronousCallReturnsTheFold : Obligations.SynchronousCallReturnsTheFold := by
  intro s c a n hw bs rest h hs hmay ha hn hr hbs hlen hi
  subst hlen
  have hinv := (h.withInbox (seqContinue a bs.length hw ++ rest)).setCrc c
  obtain ⟨t, ht, hret⟩ := exists_returned_of_seqContinue hinv hs hmay ha hn hr
    (State.SameSpace.holds (s := s) ⟨by rfl, by rfl⟩ hbs) rfl
  obtain ⟨k, hk⟩ := Reaches.writeCrc hs.1 hi ht
  exact ⟨k, t, hk, hret.inbox, hret.crc, hret.read, hret.ready, hret.done⟩

end Sys2Proof.Machine
end


section
/-! The Table Set is the shift register of R101 run for whole bytes: entry `i` of table `k` is `8 * (k + 1)` shifts of
`i`. The folds of the datapath, the facts of R104 and the characterisation of R103 follow from the laws of the
shifts. -/

namespace Sys2Proof.Machine

/-! ### The functions of the datapath by shifts -/

/-- Table 0 by R101, and each later table eight shifts on (R102). -/
theorem table_eq_bitSteps (k : Nat) (i : Byte) : table k i = bitSteps (8 * (k + 1)) (zext i) := by
  rw [Nat.mul_succ, Nat.add_comm, bitSteps_add]
  exact (bitSteps_table k 0 i).symm

theorem zeroFold_eq_bitSteps (c : Word) : zeroFold c = bitSteps 8 c := (bitSteps_eight c).symm

theorem tbyteFn_eq_bitSteps (c : Word) (b : Byte) : tbyteFn c b = bitSteps 8 (c ^^^ zext b) := by
  rw [bitSteps_eight, BitVec.ushiftRight_xor_distrib, zext_shift, BitVec.xor_zero, tbyteFn]

/-- The 2-byte fold of the wrapper is 16 shifts, one byte after the other (R121). -/
theorem crc32HFn_eq_bitSteps (c : Word) (h : Half) : crc32HFn c h = bitSteps 16 (c ^^^ h.setWidth 32) := by
  have hbyte (k : Nat) (hk : k < 2) : byteOf (h.setWidth 32) k = h.extractLsb' (8 * k) 8 := by
    apply BitVec.eq_of_getLsbD_eq
    intro i hi
    rw [byteOf_getLsbD _ _ _ hi, BitVec.getLsbD_setWidth, BitVec.getLsbD_extractLsb']
    simp [hi, show 8 * k + i < 32 by omega]
  have hgone : h.setWidth 32 >>> 16 = 0#32 := by
    apply BitVec.eq_of_getLsbD_eq
    intro i hi
    simp
  have hsteps := (bitSteps_add_eight_xor 8 c (h.setWidth 32)).trans (bitSteps_add_eight_xor 0 _ _)
  simp only [← BitVec.shiftRight_add, Nat.reduceAdd, hgone, BitVec.xor_zero, byteOf_shiftRight _ 1,
    hbyte 0 (by decide), hbyte 1 (by decide)] at hsteps
  exact hsteps.symm

/-- Settles O14: each word fold takes its operand's bytes off the shift register one after the other, and a bulk step is
two 4-byte folds. -/
theorem foldsAreBitSerialDivision : Obligations.FoldsAreBitSerialDivision := by
  refine ⟨tbyteFn_eq_bitSteps, tbyteFn_eq_bitSteps, crc32HFn_eq_bitSteps, crc32WFn_eq_bitSteps, fun c w1 w2 => ?_⟩
  rw [slice8Fn_eq_crc32WFn, crc32WFn_eq_bitSteps, crc32WFn_eq_bitSteps]

/-! ### Linearity -/

theorem table_zero (k : Nat) : table k 0#8 = 0#32 := by
  rw [table_eq_bitSteps, show zext 0#8 = 0#32 from rfl, bitSteps_zero_word]

theorem table_xor (k : Nat) (a b : Byte) : table k (a ^^^ b) = table k a ^^^ table k b := by
  simp only [table_eq_bitSteps, zext_xor, bitSteps_xor]

/-- Settles O7: all of these functions are shifts, and a shift is linear (R104 (a) to (d)). -/
theorem tablesAreLinear : Obligations.TablesAreLinear := by
  refine ⟨table_zero, table_xor, fun c d => ?_, ?_, fun c b => ?_⟩
  · simp only [zeroFold_eq_bitSteps, bitSteps_xor]
  · rw [zeroFold_eq_bitSteps, bitSteps_zero_word]
  · rw [zeroFold_eq_bitSteps, tbyteFn_eq_bitSteps]

/-! ### Zero bytes -/

theorem zeroFold_iterate (n : Nat) (v : Word) : zeroFold^[n] v = bitSteps (8 * n) v := by
  induction n generalizing v with
  | zero => rfl
  | succ n ih =>
    rw [Function.iterate_succ_apply, ih, zeroFold_eq_bitSteps, ← bitSteps_add, Nat.mul_succ, Nat.add_comm]

theorem byteOf_shiftRight_byte (x : Word) (j : Nat) : byteOf (x >>> 8) j = byteOf x (j + 1) := by
  rw [← byteOf_shiftRight, ← BitVec.shiftRight_add, ← byteOf_shiftRight x, Nat.mul_succ, Nat.add_comm]

/-- The shifts of `n` bytes by one lookup for each byte shifted out (R104 (e)). -/
theorem bitSteps_lookups (n : Nat) (v : Word) :
    bitSteps (8 * n) v =
      ((List.range n).map (fun j => table (n - 1 - j) (byteOf v j))).foldl (· ^^^ ·) (v >>> (8 * n)) := by
  induction n generalizing v with
  | zero => exact (BitVec.ushiftRight_zero v).symm
  | succ n ih =>
    have hindex (j : Nat) : n + 1 - 1 - (j + 1) = n - 1 - j := by omega
    rw [bitSteps_lookup, ih, ← BitVec.shiftRight_add, Nat.mul_succ, Nat.add_comm 8,
      ← List.foldl_assoc (op := fun a b : Word => a ^^^ b), List.range_succ_eq_map, List.map_cons, List.map_map,
      List.foldl_cons, BitVec.xor_comm]
    simp only [Function.comp_def, Nat.sub_zero, Nat.succ_eq_add_one, hindex, byteOf_shiftRight_byte]
    rw [Nat.add_sub_cancel]

/-- Settles O8: `Z` iterated is shifts, and shifts are lookups; no bound on `n` is needed. -/
theorem zeroFoldIteratedByLookups : Obligations.ZeroFoldIteratedByLookups := fun v n _ _ => by
  rw [zeroFold_iterate, bitSteps_lookups]

/-! ### The characterisation of the tables -/

theorem fold_zeros (c : Word) (k : Nat) : fold c (List.replicate k 0x00#8) = bitSteps (8 * k) c := by
  induction k generalizing c with
  | zero => rfl
  | succ k ih =>
    rw [List.replicate_succ, fold, ih, tbyteFn_eq_bitSteps, show zext 0#8 = 0#32 from rfl, BitVec.xor_zero,
      ← bitSteps_add, Nat.mul_succ, Nat.add_comm]

/-- The entry for lane `k` is what a byte contributes once `k` more bytes have passed (R103). -/
theorem fold_byte_zeros (k : Nat) (i : Byte) : fold 0#32 (i :: List.replicate k 0x00#8) = table k i := by
  rw [fold, fold_zeros, tbyteFn_eq_bitSteps, BitVec.zero_xor, ← bitSteps_add, table_eq_bitSteps, Nat.mul_succ,
    Nat.add_comm]

/-- R133: a bulk step is the fold of its eight bytes. -/
theorem slice8Fn_le32 (c : Word) (d0 d1 d2 d3 d4 d5 d6 d7 : Byte) :
    slice8Fn c (le32 d0 d1 d2 d3) (le32 d4 d5 d6 d7) = fold c [d0, d1, d2, d3, d4, d5, d6, d7] := by
  simp only [slice8Fn_eq_crc32WFn, crc32WFn, byteOf_le32_0, byteOf_le32_1, byteOf_le32_2, byteOf_le32_3, fold]

/-- The eight lookups of a bulk step in the tables `T`, with `d m` the index in lane `m` (R131). -/
def laneLookups (T : Nat → Byte → Word) (d : Nat → Byte) : Word :=
  T 7 (d 7) ^^^ T 6 (d 6) ^^^ T 5 (d 5) ^^^ T 4 (d 4) ^^^ T 3 (d 3) ^^^ T 2 (d 2) ^^^ T 1 (d 1) ^^^ T 0 (d 0)

/-- From zero, the fold of eight bytes is their lookups in the Table Set, the last byte in lane 0 (R132, R133). -/
theorem fold_eq_laneLookups (d : Nat → Byte) :
    fold 0#32 [d 7, d 6, d 5, d 4, d 3, d 2, d 1, d 0] = laneLookups table d := by
  rw [← slice8Fn_le32, slice8Fn, sliceTerm, laneLookups]
  simp only [BitVec.zero_xor, byteOf_le32_0, byteOf_le32_1, byteOf_le32_2, byteOf_le32_3]

/-- The group that is zero except for the byte `i` in lane `k` (R103). -/
def singleByte (k : Nat) (i : Byte) (m : Nat) : Byte := if m = k then i else 0#8

/-- Of the lookups of such a group, only the one in lane `k` counts. -/
theorem laneLookups_single {T : Nat → Byte → Word} (hzero : ∀ m ≤ 7, T m 0#8 = 0#32) {k : Nat} (hk : k ≤ 7)
    (i : Byte) : laneLookups T (singleByte k i) = T k i := by
  have hlane (m : Nat) (hm : m ≤ 7) : T m (singleByte k i m) = if m = k then T k i else 0#32 := by
    unfold singleByte
    split
    · next h => rw [h]
    · exact hzero m hm
  simp only [laneLookups, hlane, Nat.reduceLeDiff]
  interval_cases k <;> simp

/-- Settles O6: the bulk step from zero on a group with the one byte `i`, in lane `k`, answers `T k i`, and its fold is
the entry of the Table Set (R103). -/
theorem tableEntryIsFoldOfZeroPaddedByte : Obligations.TableEntryIsFoldOfZeroPaddedByte := by
  refine ⟨fun k i _ => (fold_byte_zeros k i).symm, fun T k i hzero hk hne => ?_⟩
  have hlane := laneLookups_single hzero hk i
  refine ⟨0#32, singleByte k i 7, singleByte k i 6, singleByte k i 5, singleByte k i 4, singleByte k i 3,
    singleByte k i 2, singleByte k i 1, singleByte k i 0, ?_⟩
  simp only [BitVec.zero_xor, byteOf_le32_0, byteOf_le32_1, byteOf_le32_2, byteOf_le32_3]
  rw [laneLookups] at hlane
  rw [hlane, fold_eq_laneLookups, laneLookups_single (fun m _ => table_zero m) hk]
  exact hne

/-! ### Integrity figures -/

/-- The polynomial has its top bit set, so a shift moves the low bit to the top. -/
theorem bitStep_top (c : Word) : (bitStep c).getLsbD 31 = c.getLsbD 0 := by
  unfold bitStep
  split
  · next h => simp [h, Config.polyR]
  · next h => simpa using h

/-- A shift register whose top `n` bits are zero after `n` shifts had its low `n` bits zero: none was picked up. -/
theorem low_zero_of_bitSteps_top_zero {n : Nat} (hn : n ≤ 32) {c : Word}
    (htop : ∀ j < n, (bitSteps n c).getLsbD (31 - j) = false) : ∀ j < n, c.getLsbD j = false := by
  induction n generalizing c with
  | zero => exact fun j hj => absurd hj (Nat.not_lt_zero j)
  | succ n ih =>
    have hlow : ∀ j < n, (bitStep c).getLsbD j = false := ih (by omega) fun j hj => htop j (by omega)
    have hshift : bitSteps (n + 1) c = bitStep c >>> n := bitSteps_of_low_zero _ n hlow
    have hzero : c.getLsbD 0 = false := by
      have h := htop n (Nat.lt_succ_self n)
      rw [hshift, BitVec.getLsbD_ushiftRight, show n + (31 - n) = 31 by omega, bitStep_top] at h
      exact h
    intro j hj
    cases j with
    | zero => exact hzero
    | succ j =>
      have h := hlow j (by omega)
      rw [bitStep, hzero, if_neg Bool.false_ne_true, BitVec.getLsbD_ushiftRight, Nat.add_comm] at h
      exact h

theorem eq_zero_of_table_top_zero {i : Byte} (h : byteOf (table 0 i) 3 = 0#8) : i = 0#8 := by
  have htop (j : Nat) (hj : j < 8) : (bitSteps 8 (zext i)).getLsbD (31 - j) = false := by
    have hbit := byteOf_getLsbD (table 0 i) 3 (7 - j) (by omega)
    rw [h, BitVec.getLsbD_zero, show 8 * 3 + (7 - j) = 31 - j by omega] at hbit
    exact hbit.symm
  apply BitVec.eq_of_getLsbD_eq
  intro j hj
  simpa [zext, show j < 32 by omega] using low_zero_of_bitSteps_top_zero (by decide) htop j hj

/-- The top byte is linear in the index and vanishes only at 0, so it tells the indices apart (R104 (f)). -/
theorem table_top_injective {i j : Byte} (h : byteOf (table 0 i) 3 = byteOf (table 0 j) 3) : i = j := by
  apply BitVec.xor_eq_zero_iff.mp
  apply eq_zero_of_table_top_zero
  rw [table_xor, byteOf_xor, h, BitVec.xor_self]

/-- By linearity the entries at some indices add up to the entry at the sum of the indices. -/
theorem foldl_xor_table (k : Nat) (l : List Byte) :
    (l.map (table k)).foldl (· ^^^ ·) 0#32 = table k (l.foldl (· ^^^ ·) 0#8) := by
  rw [← table_zero k, List.foldl_map]
  exact List.foldl_hom (table k) fun a b => (table_xor k a b).symm

/-- Four byte values from a multiple of four on cancel, so the first `4 * m` do. -/
theorem foldl_xor_bytes (m : Nat) : ((List.range (4 * m)).map (BitVec.ofNat 8)).foldl (· ^^^ ·) 0#8 = 0#8 := by
  have hfour : ∀ x : Byte, 4#8 * x ^^^ (4#8 * x + 1#8) ^^^ (4#8 * x + 2#8) ^^^ (4#8 * x + 3#8) = 0#8 := by decide
  induction m with
  | zero => rfl
  | succ m ih =>
    simpa [Nat.mul_succ, List.range_succ, ih, BitVec.ofNat_add, BitVec.ofNat_mul] using hfour (BitVec.ofNat 8 m)

/-- Settles O9: the first two facts by linearity, the listed entries by evaluation. -/
theorem tableIntegrity : Obligations.TableIntegrity := by
  refine ⟨fun i j => table_top_injective, fun k _ => ?_, by decide, by decide, by decide⟩
  have h := foldl_xor_table k ((List.range 256).map (BitVec.ofNat 8))
  rw [List.map_map, foldl_xor_bytes 64, table_zero] at h
  exact h

end Sys2Proof.Machine
end


section
/-! A register access of an idle engine, said once per register; the word of `STATUS` by its fields, which hold whether
the engine is idle or busy; and the wrapper's micro-operations where the capability is missing. -/

namespace Sys2Proof.Machine

/-! ### The wrapper without its capability -/

theorem State.wrapper_unavailable {s : State} (h : s.params.hwBuild = false ∨ s.params.hwcap = false) (t : State) :
    s.wrapper t = .refused .wrapperUnavailable := by
  rcases s.wrapper_cases t with ⟨hbuild, hcap, -⟩ | ⟨-, hw⟩
  · simp [hbuild, hcap] at h
  · exact hw

/-- Settles O23: each of the three is a fold under the wrapper's guard. -/
theorem absentWrapperRunsNothing : Obligations.AbsentWrapperRunsNothing := by
  intro s i hi h
  simp only [List.mem_cons, List.not_mem_nil, or_false] at hi
  rcases hi with rfl | rfl | rfl <;> exact State.wrapper_unavailable h _

/-! ### The word of `STATUS` -/

/-- An appended field adds to the shifted upper fields. -/
theorem toNat_append_eq_add {m n : Nat} (x : BitVec m) (y : BitVec n) :
    (x ++ y).toNat = x.toNat * 2 ^ n + y.toNat := by
  rw [BitVec.toNat_append, ← Nat.shiftLeft_add_eq_or_of_lt y.isLt, Nat.shiftLeft_eq]

/-- R27: the weights of the fields. -/
theorem State.statusWord_toNat (s : State) :
    s.statusWord.toNat = s.busy.toNat + 2 * s.done.toNat + 4 * s.err.toNat + 8 * s.ecode.toNat +
      64 * s.params.hwcap.toNat + 128 * s.params.hwBuild.toNat := by
  simp only [State.statusWord, toNat_append_eq_add, BitVec.toNat_ofBool, BitVec.toNat_ofNat]
  omega

/-- R111: `HWCAP` is bit 6. -/
theorem State.detectResult_statusWord (s : State) : detectResult s.statusWord.toNat = s.params.hwcap := by
  change s.statusWord.getLsbD 6 = s.params.hwcap
  simp only [State.statusWord, BitVec.getLsbD_append]
  simp

/-! ### Reads -/

theorem State.hostRead_of_no_draw {s : State} {r : Reg} (h : s.readDraws r = false) :
    s.hostRead r = { s with outbox := s.outbox ++ [⟨r, s.readValue r⟩] } := by
  simp [State.hostRead, h]

theorem State.readDraws_idle {s : State} (hb : s.busy = false) (r : Reg) : s.readDraws r = false := by
  cases r with
  | crc | ptr | len => exact hb
  | cmd | status | reserved5 | reserved6 | reserved7 => rfl

theorem State.readData_idle {s : State} (hb : s.busy = false) (value width : Nat) : s.readData value width = value := by
  simp [State.readData, hb]

/-- Settles O32: an idle engine draws no free value, so each register shows its content. -/
theorem idleRegisterRead : Obligations.IdleRegisterRead := by
  intro s r rest hb hi
  have hdraw := State.readDraws_idle (s := { s with inbox := rest }) hb r
  rw [step_of_cons hi, handle_read, State.hostRead_of_no_draw hdraw]
  cases r with
  | crc | ptr | len => simp only [State.readValue, State.readData_idle (s := { s with inbox := rest }) hb]
  | status => simp only [State.readValue, State.statusWord_toNat]
  | cmd | reserved5 | reserved6 | reserved7 => rfl

theorem Params.hwcap_of_no_build {p : Params} (hp : p.wf = true) (hbuild : p.hwBuild = false) : p.hwcap = false := by
  simp only [Params.wf, hbuild, Bool.false_or, Bool.and_eq_true, Bool.not_eq_true'] at hp
  exact hp.2

/-- Settles O34: `STATUS` is read alike in every engine state, without drawing a free value. -/
theorem detectYieldsTheCapability : Obligations.DetectYieldsTheCapability := by
  intro s rest hi
  refine ⟨s.statusWord.toNat, ?_, s.detectResult_statusWord, fun hp hbuild => ?_⟩
  · rw [step_of_cons hi, handle_read, State.hostRead_of_no_draw rfl]
    rfl
  · exact s.detectResult_statusWord.trans (Params.hwcap_of_no_build hp hbuild)

/-! ### Writes -/

theorem hostWrite_crc_idle {s : State} (hb : s.busy = false) (v : Nat) :
    hostWrite .crc v s = .next (s.setCrc (BitVec.ofNat 32 v)) := by
  simp [hostWrite, hb]

theorem hostWrite_ptr_idle {s : State} (hb : s.busy = false) (v : Nat) : hostWrite .ptr v s = .next (s.setPtr v) := by
  simp [hostWrite, hb]

theorem hostWrite_len_idle {s : State} (hb : s.busy = false) (v : Nat) : hostWrite .len v s = .next (s.setLen v) := by
  simp [hostWrite, hb]

/-- Settles O35: a datapath register takes the value; `STATUS` and the reserved numbers discard it. -/
theorem idleRegisterWrite : Obligations.IdleRegisterWrite := by
  intro s r v rest hb hr hi
  rw [step_of_cons hi, handle_write]
  cases r with
  | crc => exact hostWrite_crc_idle (s := { s with inbox := rest }) hb v
  | ptr => exact hostWrite_ptr_idle (s := { s with inbox := rest }) hb v
  | len => exact hostWrite_len_idle (s := { s with inbox := rest }) hb v
  | cmd => exact absurd rfl hr
  | status | reserved5 | reserved6 | reserved7 => rfl

end Sys2Proof.Machine
end

section
/-! The wrapper's folds over their operand: the bytes from the least significant upward, the same by lookups, and the
register update of a micro-operation whose read is served. -/

namespace Sys2Proof.Machine

/-! ### The operand's bytes -/

theorem crc32BFn_eq_fold (c : Word) (b : Byte) : crc32BFn c b = fold c [b] := rfl

theorem crc32HFn_eq_fold (c : Word) (h : Half) : crc32HFn c h = fold c [h.extractLsb' 0 8, h.extractLsb' 8 8] := rfl

theorem crc32WFn_eq_fold (c w : Word) :
    crc32WFn c w = fold c [byteOf w 0, byteOf w 1, byteOf w 2, byteOf w 3] := rfl

/-- Settles O11: the wrapper's functions take the operand's bytes from the least significant upward, which is the order
in which the little-endian read found them. -/
theorem wrapperFoldsBytesInAddressOrder : Obligations.WrapperFoldsBytesInAddressOrder :=
  ⟨crc32BFn_eq_fold, crc32HFn_eq_fold, crc32WFn_eq_fold,
    fun _ _ b hb => ⟨State.readBytes_succ_eq_some.mpr ⟨b, [], hb, rfl, rfl⟩, fun c => crc32BFn_eq_fold c b⟩,
    fun _ _ _ => State.memRead2_fold, fun _ _ _ => State.memRead4_fold⟩

/-! ### Closed forms -/

/-- A 2-byte operand reaches the low half of the running value only (R121). -/
theorem xor_half_shiftRight (c : Word) (h : Half) : (c ^^^ h.setWidth 32) >>> 16 = c >>> 16 := by
  apply BitVec.eq_of_getLsbD_eq
  intro i hi
  simp

/-- The shifts of two bytes by two lookups (R104, R121). -/
theorem bitSteps_two_lookups (x : Word) :
    bitSteps 16 x = table 1 (byteOf x 0) ^^^ table 0 (byteOf x 1) ^^^ (x >>> 16) := by
  rw [bitSteps_lookup 1, bitSteps_lookup 0, byteOf_shiftRight_byte, ← BitVec.shiftRight_add, BitVec.xor_assoc]
  rfl

/-- Settles O12: the word folds are shifts of `c` with the operand on it, and shifts are lookups. -/
theorem wrapperClosedForms : Obligations.WrapperClosedForms := by
  refine ⟨fun c h => ?_, fun c w => ?_, fun c => ?_, slice8Fn_eq_crc32WFn⟩
  · rw [crc32HFn_eq_bitSteps, bitSteps_two_lookups, xor_half_shiftRight]
  · rw [crc32WFn_eq_bitSteps]
    exact bitSteps_four_lookups 0 _
  · rw [crc32WFn_eq_bitSteps, BitVec.xor_self, bitSteps_zero_word]

/-! ### The micro-operations where the operand is served -/

/-- What is left of `s` when `n` bytes at `PTR` have been read in one access and retired with the value `v` (R156). -/
theorem State.noteRead_retire_eq {s : State} {n : Nat} (v : Word) (hn : n ≤ s.len) (hl : s.len < s.params.space) :
    (s.noteRead s.ptr n).retire v n = { s with
      crc := v, ptr := (s.ptr + n) % s.params.space, len := s.len - n, accesses := s.accesses ++ [⟨s.ptr, n⟩] } :=
  State.retire_eq (s := s.noteRead s.ptr n) hn hl

theorem State.fold1_served {s : State} {b : Byte} (f : Word → Byte → Word) (hm : s.memRead1 s.ptr = some b) :
    s.fold1 f = (s.noteRead s.ptr 1).retire (f s.crc b) 1 := by
  simp only [State.fold1, hm]

theorem State.fold2_served {s : State} {h : Half} (f : Word → Half → Word) (hm : s.memRead2 s.ptr = some h) :
    s.fold2 f = (s.noteRead s.ptr 2).retire (f s.crc h) 2 := by
  simp only [State.fold2, hm]

theorem State.fold4_served {s : State} {w : Word} (f : Word → Word → Word) (hm : s.memRead4 s.ptr = some w) :
    s.fold4 f = (s.noteRead s.ptr 4).retire (f s.crc w) 4 := by
  simp only [State.fold4, hm]

/-- Settles O20: with the wrapper usable each of the three is a fold of its width, which retires the bytes it read. -/
theorem wrapperFoldsItsOperand : Obligations.WrapperFoldsItsOperand := by
  intro s hbuild hcap hl
  have run {t u : State} (h : t = u) : s.wrapper t = .next u := State.wrapper_eq_next.mpr ⟨hbuild, hcap, h⟩
  refine ⟨fun b hm hn => run ?_, fun h hm hn => run ?_, fun w hm hn => run ?_⟩
  · rw [State.fold1_served crc32BFn hm, crc32BFn_eq_fold, State.noteRead_retire_eq _ hn hl]
  · rw [State.fold2_served crc32HFn hm, crc32HFn_eq_fold, State.noteRead_retire_eq _ hn hl]
  · rw [State.fold4_served crc32WFn hm, crc32WFn_eq_fold, State.noteRead_retire_eq _ hn hl]

end Sys2Proof.Machine
end

section
/-! The bulk step of R131 and the byte fold of R130: as functions of the running value, and as micro-operations where
their reads are served and where one of the two reads of `SLICE8` is not. -/

namespace Sys2Proof.Machine

/-! ### The functions -/

/-- Settles O10: the lookups of a bulk step are two word folds, each of which takes its bytes in address order. -/
theorem bulkStepIsEightByteFolds : Obligations.BulkStepIsEightByteFolds := slice8Fn_le32

/-- A shift to zero picked up no polynomial, whose top bit would be left, so nothing was shifted out (R101). -/
theorem eq_zero_of_bitStep_zero {c : Word} (h : bitStep c = 0#32) : c = 0#32 := by
  have hlow : c.getLsbD 0 = false := by rw [← bitStep_top, h, BitVec.getLsbD_zero]
  have hrest : c >>> 1 = 0#32 := by rwa [bitStep, hlow, if_neg Bool.false_ne_true] at h
  apply BitVec.eq_of_getLsbD_eq
  intro i _
  cases i with
  | zero => exact hlow
  | succ i => simpa [Nat.add_comm] using congrArg (·.getLsbD i) hrest

/-- A shift is linear and only zero shifts to zero, so no two values meet. -/
theorem bitStep_injective : Function.Injective bitStep := fun c d h => by
  apply BitVec.xor_eq_zero_iff.mp
  apply eq_zero_of_bitStep_zero
  rw [bitStep_xor, h, BitVec.xor_self]

theorem bitSteps_injective (n : Nat) : Function.Injective (bitSteps n) := by
  induction n with
  | zero => exact fun _ _ h => h
  | succ n ih => exact ih.comp bitStep_injective

theorem tbyteFn_injective (b : Byte) : Function.Injective (fun c => tbyteFn c b) := fun c d h => by
  simp only [tbyteFn_eq_bitSteps] at h
  exact (BitVec.xor_left_inj _).mp (bitSteps_injective 8 h)

/-- Settles O13: an injective map of the finitely many words is a bijection; the other two facts are that the fold
shifts `c ^ b`, and that the lookup at index 0 is zero (R104 (a)). -/
theorem byteFoldIsBijective : Obligations.ByteFoldIsBijective := by
  refine ⟨fun b => Finite.injective_iff_bijective.mp (tbyteFn_injective b), fun c b => ?_, fun c => ?_⟩
  · rw [tbyteFn_eq_bitSteps, tbyteFn_eq_bitSteps, show zext 0#8 = 0#32 from rfl, BitVec.xor_zero]
  · rw [tbyteFn, byteOf_xor, byteOf_zext, BitVec.xor_self, table_zero, BitVec.zero_xor]

/-- Settles O16: the indices and both results are fixed, so the lookups of all 64 exchanges are evaluated (R135). -/
theorem noTwoTablesCanBeExchanged : Obligations.NoTwoTablesCanBeExchanged := by
  unfold Obligations.NoTwoTablesCanBeExchanged
  decide

/-! ### The micro-operations where their reads are served -/

/-- Settles O18: the byte is read in one access and retired. -/
theorem tbyteFoldsOneByte : Obligations.TbyteFoldsOneByte := by
  intro s b hm hn hl
  rw [exec_tbyte, execTbyte, State.fold1_served tbyteFn hm, State.noteRead_retire_eq _ hn hl, tbyteFn]

theorem State.fold8_served {s : State} {w1 w2 : Word} (f : Word → Word → Word → Word)
    (h1 : s.memRead4 s.ptr = some w1) (h2 : s.memRead4 (s.ptr + 4) = some w2) :
    s.fold8 f = (s.noteReads [⟨s.ptr, 4⟩, ⟨s.ptr + 4, 4⟩]).retire (f s.crc w1 w2) 8 := by
  simp only [State.fold8, h1, h2, State.noteRead_noteRead]

/-- Settles O19: the two words are read in order and retired as eight bytes. -/
theorem slice8FoldsEightBytes : Obligations.Slice8FoldsEightBytes := by
  intro s w1 w2 h1 h2 hn hl
  rw [exec_slice8, execSlice8, State.fold8_served slice8Fn h1 h2,
    State.retire_eq (s := s.noteReads [⟨s.ptr, 4⟩, ⟨s.ptr + 4, 4⟩]) hn hl, slice8Fn, sliceTerm]
  rfl

/-! ### `SLICE8` where a read is not served -/

/-- The first read fails, and the second is not issued (R131, R175). -/
theorem State.fold8_unserved_first {s : State} (f : Word → Word → Word → Word) (h : s.memRead4 s.ptr = none) :
    s.fold8 f = (s.noteReads [⟨s.ptr, 4⟩]).raise .busError := by
  simp only [State.fold8, h, State.noteRead_eq]

theorem State.fold8_unserved_second {s : State} {w1 : Word} (f : Word → Word → Word → Word)
    (h1 : s.memRead4 s.ptr = some w1) (h2 : s.memRead4 (s.ptr + 4) = none) :
    s.fold8 f = (s.noteReads [⟨s.ptr, 4⟩, ⟨s.ptr + 4, 4⟩]).raise .busError := by
  simp only [State.fold8, h1, h2, State.noteRead_noteRead]

/-- A bulk step that raised `BusError` after the reads `as` (R175, R176). -/
theorem exec_slice8_of_raise {s : State} {as : List Access}
    (h : s.fold8 slice8Fn = (s.noteReads as).raise .busError) :
    ∃ (c : Word) (p l : Nat), p < s.params.space ∧ l < s.params.space ∧
      exec .slice8 s = .next { s with
        crc := c, ptr := p, len := l, busy := false, done := false, err := true, ecode := 4#3,
        accesses := s.accesses ++ as, draws := s.draws + 1 } := by
  obtain ⟨c, p, l, hp, hl, hraise⟩ := State.raise_busError_eq (s.noteReads as)
  exact ⟨c, p, l, hp, hl, congrArg _ (h.trans hraise)⟩

/-- Settles O22: either read raises `BusError`, after the reads that were issued. -/
theorem slice8BusErrorStopsAtTheFailingRead : Obligations.Slice8BusErrorStopsAtTheFailingRead := fun _ =>
  ⟨fun h1 => exec_slice8_of_raise (State.fold8_unserved_first _ h1),
    fun _ h1 h2 => exec_slice8_of_raise (State.fold8_unserved_second _ h1 h2)⟩

end Sys2Proof.Machine
end

section
/-! The fold theorem (R150). A turn over readable bytes takes the first of them into `CRC`
(`State.Updating.turn`); the relation `State.HasFolded` composes over turns and over pieces, and the statements about
alignment, paths and chunking are read off one run. -/

namespace Sys2Proof.Machine

/-! ### Bytes taken from a buffer -/

/-- Two runs of bytes stand one after the other exactly when their concatenation stands there. -/
theorem State.holds_append {s : State} {a : Nat} {xs ys : List Byte} :
    s.holds a (xs ++ ys) ↔ s.holds a xs ∧ s.holds (a + xs.length) ys := by
  unfold State.holds
  rw [List.length_append, State.readBytes_add_eq_some]
  constructor
  · rintro ⟨xs', ys', hx, hy, heq⟩
    obtain ⟨rfl, rfl⟩ := List.append_inj heq (State.readBytes_length hx).symm
    exact ⟨hx, hy⟩
  · rintro ⟨hx, hy⟩
    exact ⟨xs, ys, hx, hy, rfl⟩

/-- `t` comes from `s` by folding the bytes `bs` at `PTR`: they are in `CRC` and `PTR` is past them, modulo `2^AW`; the
error code, the parameters and the memory are as they were (R150). -/
structure State.HasFolded (s : State) (bs : List Byte) (t : State) : Prop where
  crc : t.crc = fold s.crc bs
  ptr : t.ptr = (s.ptr + bs.length) % s.params.space
  ecode : t.ecode = s.ecode
  space : s.SameSpace t

theorem State.HasFolded.trans {s t u : State} {xs ys : List Byte} (h : s.HasFolded xs t) (k : t.HasFolded ys u) :
    s.HasFolded (xs ++ ys) u where
  crc := by rw [k.crc, h.crc, fold_append]
  ptr := by rw [k.ptr, h.space.params, h.ptr, Nat.mod_add_mod, List.length_append, Nat.add_assoc]
  ecode := k.ecode.trans h.ecode
  space := ⟨k.space.params.trans h.space.params, k.space.mem.trans h.space.mem⟩

/-- The bytes that follow stand at the new `PTR`, and still do not wrap: past the top of the space none follows (R9). -/
theorem State.HasFolded.rest {s t : State} {xs ys : List Byte} (h : s.HasFolded xs t) (hbs : s.holds s.ptr (xs ++ ys))
    (hr : s.ptr + (xs ++ ys).length ≤ s.params.space) :
    t.holds t.ptr ys ∧ t.ptr + ys.length ≤ t.params.space := by
  cases ys with
  | nil =>
    refine ⟨rfl, ?_⟩
    rw [h.ptr, h.space.params]
    exact (Nat.mod_lt _ (Params.space_pos _)).le
  | cons y ys =>
    rw [List.length_append, List.length_cons] at hr
    have hptr : t.ptr = s.ptr + xs.length := h.ptr.trans (Nat.mod_eq_of_lt (by omega))
    rw [hptr, h.space.params, List.length_cons]
    exact ⟨h.space.holds (State.holds_append.mp hbs).2, by omega⟩

/-! ### A turn -/

/-- The micro-operation of a select code that answers a next state has folded as many bytes as the code says (R82). -/
theorem exec_foldsNext {s t : State} {u : BitVec 3} {i : Instr} (hd : decode (.uop u) = .ok i)
    (he : exec i s = .next t) : s.FoldsNext (uopBytes u) t := by
  have hu := eq_encode_of_decode hd
  cases i with
  | nop | updateSw | updateHw | clrerr => cases hu
  | tbyte => cases hu; cases he; exact s.fold1_foldsNext
  | slice8 => cases hu; cases he; exact s.fold8_foldsNext
  | crc32B => cases hu; obtain ⟨-, -, rfl⟩ := State.wrapper_eq_next.mp he; exact s.fold1_foldsNext
  | crc32H => cases hu; obtain ⟨-, -, rfl⟩ := State.wrapper_eq_next.mp he; exact s.fold2_foldsNext
  | crc32W => cases hu; obtain ⟨-, -, rfl⟩ := State.wrapper_eq_next.mp he; exact s.fold4_foldsNext

/-- The sequencer's select code is a legal one and asks for no more bytes than are left (R143, R146). -/
theorem State.nextUop_fits {s : State} (hl : 1 ≤ s.len) :
    ∃ i, decode (.uop s.nextUop) = .ok i ∧ uopBytes s.nextUop ≤ s.len := by
  have hcode {i : Instr} {u : BitVec 3} (hd : decode (.uop s.nextUop) = .ok i) (hi : encode i = .uop u) :
      s.nextUop = u := CodeWord.uop.inj ((eq_encode_of_decode hd).trans hi)
  rcases s.decode_nextUop_cases with ⟨-, -, hd⟩ | ⟨-, -, hn, hd⟩ | ⟨-, hn, hd⟩ | ⟨-, hn, -, hd⟩ | ⟨-, -, hd⟩ <;>
    refine ⟨_, hd, ?_⟩ <;> rw [hcode hd rfl]
  · exact hl
  · exact hn
  · exact hn
  · exact hn
  · exact hl

/-- The registers after a micro-operation that folded the bytes `xs`, with the completion test (R147, R156). -/
theorem State.HasFolded.of_retire (s : State) (as : List Access) (xs : List Byte) :
    s.HasFolded xs ((s.noteReads as).retire (fold s.crc xs) xs.length).complete :=
  ⟨State.complete_crc _, State.complete_ptr _, State.complete_ecode _, State.complete_params _, State.complete_mem _⟩

/-- A busy engine that the completion test finds finished has set `DONE`, with nothing left (R147). -/
theorem State.complete_finished {s : State} (hb : s.busy = true) (h : s.complete.busy = false) :
    s.complete.done = true ∧ s.complete.len = 0 := by
  rcases s.complete_cases with ⟨-, h0, hc⟩ | ⟨-, hc⟩ <;> rw [hc] at h ⊢
  · exact ⟨rfl, h0⟩
  · exact nomatch h.symm.trans hb

theorem uopBytes_pos (u : BitVec 3) : 0 < uopBytes u := Nat.two_pow_pos _

/-- A turn of an `UPDATE` takes the bytes of its select code from the front of the rest into `CRC` (R143, R146). -/
theorem State.Updating.turn {s t : State} {bs : List Byte} (h : s.Updating bs) (hb : s.busy = true)
    (ht : Machine.engineStep s = .next t) :
    ∃ xs ys, bs = xs ++ ys ∧ xs.length = uopBytes s.nextUop ∧ s.HasFolded xs t ∧ t.Updating ys := by
  obtain ⟨i, hd, hn⟩ := State.nextUop_fits (h.inv.remaining hb)
  have hlen : uopBytes s.nextUop + (s.len - uopBytes s.nextUop) = bs.length := by rw [h.length]; omega
  have hbytes : s.readBytes s.ptr (uopBytes s.nextUop + (s.len - uopBytes s.nextUop)) = some bs := by
    rw [hlen]
    exact h.bytes
  obtain ⟨xs, ys, hx, hy, rfl⟩ := State.readBytes_add_eq_some.mp hbytes
  have hxl := State.readBytes_length hx
  have hyl := State.readBytes_length hy
  have hinv := h.inv.engineStep ht
  rw [engineStep_busy hb hd, mapNext_eq_next] at ht
  obtain ⟨u, hu, rfl⟩ := ht
  obtain ⟨as, rfl⟩ := exec_foldsNext hd hu xs hx
  rw [← hxl] at hinv hn ⊢
  have hfold := State.HasFolded.of_retire s as xs
  obtain ⟨hrest, -⟩ := hfold.rest h.bytes (h.length ▸ h.inv.inRange hb)
  refine ⟨xs, ys, rfl, rfl, hfold, hinv, hrest, ?_, (State.complete_err _).trans h.noError, State.complete_finished hb⟩
  rw [State.complete_len, hyl, ← hxl]
  exact (len_sub_mod hn h.inv.len).symm

/-- A legal busy engine with readable bytes before it runs an `UPDATE` over them. -/
theorem State.Inv.updating {s : State} {bs : List Byte} (h : s.Inv) (hb : s.busy = true) (hbs : s.holds s.ptr bs)
    (hlen : bs.length = s.len) : s.Updating bs :=
  ⟨h, hbs, hlen, (h.busy hb).1, fun hi => nomatch hi.symm.trans hb⟩

/-- Settles O53: what the turn has folded is what the rest of the buffer has lost. -/
theorem eachTurnKeepsTheFoldOfTheRest : Obligations.EachTurnKeepsTheFoldOfTheRest := by
  intro s t bs h hb hbs hlen ht
  obtain ⟨xs, ys, rfl, hxl, hfold, hupd⟩ := (h.updating hb hbs hlen).turn hb ht
  have hpos := uopBytes_pos s.nextUop
  refine ⟨hupd.noError, ?_, xs, ys, rfl, hupd.bytes, hupd.length, by rw [hfold.crc, fold_append]⟩
  rw [← hupd.length, ← hlen, List.length_append]
  omega

/-! ### A run -/

/-- `t` is where an `UPDATE` from `s` over the bytes `bs` ends (R147, R150). -/
structure State.Completes (s : State) (bs : List Byte) (t : State) : Prop extends s.HasFolded bs t where
  inv : t.Inv
  ready : t.ready
  done : t.done = true
  len : t.len = 0

/-- An idle `UPDATE` has ended: no byte is left. -/
theorem State.Updating.completes_of_idle {s : State} {bs : List Byte} (h : s.Updating bs) (hb : s.busy = false) :
    s.Completes bs s := by
  obtain ⟨hdone, h0⟩ := h.completed hb
  have hnil : bs = [] := List.eq_nil_of_length_eq_zero (h.length.trans h0)
  subst hnil
  exact ⟨⟨rfl, (Nat.mod_eq_of_lt h.inv.ptr).symm, rfl, rfl, rfl⟩, h.inv, ⟨hb, h.noError⟩, hdone, h0⟩

/-- As many turns as bytes are left are enough: by induction on the turns, each of which takes at least one byte. -/
theorem State.Updating.run {k : Nat} {s : State} {bs : List Byte} (h : s.Updating bs) (hk : bs.length ≤ k) :
    ∃ t, engineRun k s = .next t ∧ s.Completes bs t := by
  induction k generalizing s bs with
  | zero =>
    refine ⟨s, rfl, h.completes_of_idle (Bool.eq_false_iff.mpr fun hb => ?_)⟩
    have hleft := h.inv.remaining hb
    rw [← h.length] at hleft
    omega
  | succ k ih =>
    cases hb : s.busy with
    | false => exact ⟨s, engineRun_idle hb _, h.completes_of_idle hb⟩
    | true =>
      obtain ⟨t, ht⟩ := exists_engineStep h.inv
      obtain ⟨xs, ys, rfl, hxl, hfold, hupd⟩ := h.turn hb ht
      have hpos := uopBytes_pos s.nextUop
      rw [List.length_append] at hk
      obtain ⟨u, hrun, hend⟩ := ih hupd (by omega)
      exact ⟨u, (engineRun_succ k ht).trans hrun,
        ⟨hfold.trans hend.toHasFolded, hend.inv, hend.ready, hend.done, hend.len⟩⟩

/-- The hypotheses of R150 on a host's `UPDATE`: a ready engine, a path that may be used, a buffer in range whose bytes
`bs` can be read. -/
structure State.MayUpdate (s : State) (hw : Bool) (bs : List Byte) : Prop where
  inv : s.Inv
  ready : s.ready
  may : s.mayUse hw
  range : s.ptr + s.len ≤ s.params.space
  bytes : s.holds s.ptr bs
  length : bs.length = s.len

/-- R150, with everything the end says about the start. -/
theorem State.MayUpdate.completes {s : State} {hw : Bool} {bs : List Byte} (h : s.MayUpdate hw bs) :
    ∃ t u, exec (updateInstr hw) s = .next t ∧ engineRun s.len t = .next u ∧ s.Completes bs u := by
  have hupd : (s.accept (s.pathOf hw)).Updating bs :=
    .accept h.inv h.ready h.range h.bytes h.length (State.usable_of_pathOf_hw h.may)
  obtain ⟨u, hrun, hend⟩ := hupd.run h.length.le
  refine ⟨_, u, exec_updateInstr h.may h.range, hrun, ?_, hend.inv, hend.ready, hend.done, hend.len⟩
  simpa using State.HasFolded.trans (xs := []) ⟨State.accept_crc .., by simp [Nat.mod_eq_of_lt h.inv.ptr],
    State.accept_ecode .., State.accept_params .., State.accept_mem ..⟩ hend.toHasFolded

/-- Settles O52: the run of the accepted `UPDATE` completes over the bytes. -/
theorem updateComputesTheFold : Obligations.UpdateComputesTheFold := by
  intro s hw bs h hs hmay hr hbs hlen
  obtain ⟨t, u, hexec, hrun, hend⟩ := State.MayUpdate.completes ⟨h, hs, hmay, hr, hbs, hlen⟩
  exact ⟨t, u, hexec, hrun, hend.crc, hlen ▸ hend.ptr, hend.len, hend.ready.1, hend.done, hend.ready.2⟩

/-- Settles O54: both runs end with the fold of the same bytes from the same value. -/
theorem resultIsAlignmentIndependent : Obligations.ResultIsAlignmentIndependent := by
  rintro s s' hw hw' bs ⟨h, hs, hmay, hr, hbs, hlen⟩ ⟨h', hs', hmay', hr', hbs', hlen'⟩ hc
  obtain ⟨t, u, hexec, hrun, hend⟩ := State.MayUpdate.completes ⟨h, hs, hmay, hr, hbs, hlen⟩
  obtain ⟨t', u', hexec', hrun', hend'⟩ := State.MayUpdate.completes ⟨h', hs', hmay', hr', hbs', hlen'⟩
  exact ⟨t, t', u, u', hexec, hexec', hrun, hrun', by rw [hend.crc, hend'.crc, hc]⟩

/-- The word of `STATUS` at the end of an `UPDATE` is determined by its start (R27, R150). -/
theorem State.Completes.statusWord_eq {s t u : State} {bs : List Byte} (h : s.Completes bs t) (k : s.Completes bs u) :
    t.statusWord = u.statusWord := by
  simp only [State.statusWord, h.space.params, k.space.params, h.ecode, k.ecode, h.ready.1, k.ready.1, h.ready.2,
    k.ready.2, h.done, k.done]

/-- Settles O55: both paths complete over the bytes, from the same start. -/
theorem pathsAreEquivalent : Obligations.PathsAreEquivalent := by
  intro s bs h hs hmay hr hbs hlen
  obtain ⟨t, u, hexec, hrun, hend⟩ :=
    State.MayUpdate.completes (hw := false) ⟨h, hs, by simp, hr, hbs, hlen⟩
  obtain ⟨t', u', hexec', hrun', hend'⟩ := State.MayUpdate.completes (hw := true) ⟨h, hs, hmay, hr, hbs, hlen⟩
  exact ⟨t, t', u, u', hexec, hexec', hrun, hrun', hend.crc.trans hend'.crc.symm, hend.ptr.trans hend'.ptr.symm,
    hend.len.trans hend'.len.symm, hend.statusWord_eq hend'⟩

/-- One piece of a buffer (R152): the host writes its length and issues the command. -/
theorem exists_piece {s : State} {hw : Bool} {xs : List Byte} (h : s.Inv) (hs : s.ready) (hmay : s.mayUse hw)
    (hn : xs.length < s.params.space) (hr : s.ptr + xs.length ≤ s.params.space) (hbs : s.holds s.ptr xs) :
    ∃ t u, exec (updateInstr hw) (s.setLen xs.length) = .next t ∧ engineRun xs.length t = .next u ∧
      s.Completes xs u := by
  have hlen : (s.setLen xs.length).len = xs.length := Nat.mod_eq_of_lt hn
  have hspace : s.SameSpace (s.setLen xs.length) := ⟨rfl, rfl⟩
  have hupd : (s.setLen xs.length).MayUpdate hw xs :=
    ⟨h.setLen hs.1 _, hs, hmay, by rw [hlen]; exact hr, hspace.holds hbs, hlen.symm⟩
  obtain ⟨t, u, hexec, hrun, hend⟩ := hupd.completes
  have hfold : s.HasFolded xs u := ⟨hend.crc, hend.ptr, hend.ecode, hend.space.params, hend.space.mem⟩
  exact ⟨t, u, hexec, hlen ▸ hrun, hfold, hend.inv, hend.ready, hend.done, hend.len⟩

/-- Settles O56, by induction on the pieces: each one's end is the start of the next. -/
theorem chunkingDoesNotMatter : Obligations.ChunkingDoesNotMatter := by
  intro s pieces h hs hp hr hbs
  induction pieces generalizing s with
  | nil => exact ⟨s, rfl, rfl⟩
  | cons piece pieces ih =>
    obtain ⟨xs, hw⟩ := piece
    obtain ⟨⟨hmay, hn⟩, hp⟩ := List.forall_mem_cons.mp hp
    simp only [List.map_cons, List.flatten_cons] at hr hbs ⊢
    have hfirst : s.ptr + xs.length ≤ s.params.space := by rw [List.length_append] at hr; omega
    obtain ⟨t, u, hexec, hrun, hend⟩ := exists_piece h hs hmay hn hfirst (State.holds_append.mp hbs).1
    obtain ⟨hbs', hr'⟩ := hend.rest hbs hr
    obtain ⟨v, hv, hc⟩ := ih u hend.inv hend.ready (by simpa only [State.mayUse, hend.space.params] using hp) hr' hbs'
    refine ⟨v, ?_, by rw [hc, hend.crc, fold_append]⟩
    simp only [updatePieces, hexec, hrun, hv]

end Sys2Proof.Machine
end

section
/-! The micro-operations of an `UPDATE` (R142, R145): each list of the spec begins with the one that the sequencer
selects, and what follows is the list of the rest of the buffer; so the turns of a run spell it. -/

namespace Sys2Proof.Machine

/-! ### The lists by their first element -/

/-- The three lengths of R142 make up the buffer. -/
theorem softwareSteps_lengths (a l : Nat) : prologueLen a l + 8 * bulkLen a l + epilogueLen a l = l := by
  unfold bulkLen epilogueLen prologueLen
  omega

/-- Before the first aligned address the prologue loses its first byte (R142). -/
theorem softwareSteps_unaligned {a l : Nat} (hl : 1 ≤ l) (ha : a % 4 ≠ 0) :
    softwareSteps a l = .tbyte :: softwareSteps (a + 1) (l - 1) := by
  have hp : prologueLen a l = prologueLen (a + 1) (l - 1) + 1 := by unfold prologueLen; omega
  have hrest : l - prologueLen a l = l - 1 - prologueLen (a + 1) (l - 1) := by omega
  simp only [softwareSteps, bulkLen, epilogueLen, hrest]
  rw [hp, List.replicate_succ, List.cons_append, List.cons_append]

/-- The last bytes of a buffer are folded singly, wherever they stand (R142). -/
theorem softwareSteps_of_lt {a l : Nat} (hl : l < 8) : softwareSteps a l = List.replicate l .tbyte := by
  have hg : bulkLen a l = 0 := Nat.div_eq_of_lt (by omega)
  have hsum : prologueLen a l + epilogueLen a l = l := by simpa [hg] using softwareSteps_lengths a l
  rw [softwareSteps, hg, List.replicate_zero, List.append_nil, List.replicate_append_replicate, hsum]

/-- At an aligned address the prologue is empty, and the bulk steps lose their first (R142). -/
theorem softwareSteps_aligned {a l : Nat} (ha : a % 4 = 0) (hl : 8 ≤ l) :
    softwareSteps a l = .slice8 :: softwareSteps (a + 8) (l - 8) := by
  have hp : prologueLen a l = 0 := by unfold prologueLen; omega
  have hp' : prologueLen (a + 8) (l - 8) = 0 := by unfold prologueLen; omega
  have hg : l / 8 = (l - 8) / 8 + 1 := by omega
  have he : l % 8 = (l - 8) % 8 := by omega
  simp [softwareSteps, bulkLen, epilogueLen, hp, hp', hg, he, List.replicate_succ]

/-- The software path begins with `TBYTE` where its step rule selects it (R142, R143). -/
theorem softwareSteps_tbyte {a l : Nat} (hl : 1 ≤ l) (hc : a % 4 ≠ 0 ∨ l < 8) :
    softwareSteps a l = .tbyte :: softwareSteps (a + 1) (l - 1) := by
  by_cases h8 : l < 8
  · rw [softwareSteps_of_lt h8, softwareSteps_of_lt (by omega), ← List.replicate_succ, Nat.sub_add_cancel hl]
  · exact softwareSteps_unaligned hl (hc.resolve_right h8)

/-- The hardware path begins with the words (R145). -/
theorem hardwareSteps_word {l : Nat} (hl : 4 ≤ l) : hardwareSteps l = .crc32W :: hardwareSteps (l - 4) := by
  have hq : l / 4 = (l - 4) / 4 + 1 := by omega
  have hr : l % 4 = (l - 4) % 4 := by omega
  rw [hardwareSteps, hardwareSteps, hq, hr, List.replicate_succ, List.cons_append]

/-- After the words the 2-byte fold comes before the 1-byte fold (R145). -/
theorem hardwareSteps_half {l : Nat} (h2 : 2 ≤ l) (h4 : l < 4) :
    hardwareSteps l = .crc32H :: hardwareSteps (l - 2) := by
  obtain rfl | rfl : l = 2 ∨ l = 3 := by omega
  · rfl
  · rfl

theorem hardwareSteps_one : hardwareSteps 1 = .crc32B :: hardwareSteps 0 := rfl

@[simp] theorem pathSteps_zero (p : Path) (a : Nat) : pathSteps p a 0 = [] := by
  cases p with
  | sw => exact softwareSteps_of_lt (by decide)
  | hw => rfl

/-- The list of the spec begins with the micro-operation that the sequencer selects, and goes on with the list of the
bytes after it. -/
theorem State.pathSteps_eq_cons {s : State} {i : Instr} (hd : decode (.uop s.nextUop) = .ok i) (hl : 1 ≤ s.len) :
    pathSteps s.path s.ptr s.len =
      i :: pathSteps s.path (s.ptr + uopBytes s.nextUop) (s.len - uopBytes s.nextUop) := by
  have hu := eq_encode_of_decode hd
  rcases s.decode_nextUop_cases with ⟨hp, hc, hd'⟩ | ⟨hp, ha, hn, hd'⟩ | ⟨hp, hn, hd'⟩ | ⟨hp, hn, h4, hd'⟩ |
      ⟨hp, h2, hd'⟩ <;>
    cases hd'.symm.trans hd <;> rw [hp, CodeWord.uop.inj hu]
  · exact softwareSteps_tbyte hl hc
  · exact softwareSteps_aligned ha hn
  · exact hardwareSteps_word hn
  · exact hardwareSteps_half hn h4
  · have h1 : s.len = 1 := by omega
    rw [h1]
    exact hardwareSteps_one

/-! ### The turns of a run -/

/-- The engine keeps the path that was latched at acceptance (R28). -/
theorem engineStep_path {s t : State} (ht : engineStep s = .next t) : t.path = s.path := by
  cases hb : s.busy with
  | false =>
    rw [engineStep_idle hb] at ht
    cases ht
    rfl
  | true =>
    obtain ⟨n, u, -, -, hu, rfl⟩ := engineStep_busy_cases hb ht
    rw [State.complete_path]
    cases hu <;> rfl

theorem uopTrace_idle {s : State} (hb : s.busy = false) (n : Nat) : uopTrace n s = [] := by
  cases n with
  | zero => rfl
  | succ n => simp [uopTrace, hb]

theorem uopTrace_busy {s t : State} {i : Instr} (hb : s.busy = true) (hd : decode (.uop s.nextUop) = .ok i)
    (ht : engineStep s = .next t) (n : Nat) : uopTrace (n + 1) s = i :: uopTrace n t := by
  simp [uopTrace, hb, hd, ht]

/-- A run over readable bytes takes the micro-operations of its path: by induction on the turns, of which there are as
many as bytes or more. -/
theorem State.Updating.uopTrace {k : Nat} {s : State} {bs : List Byte} (h : s.Updating bs) (hk : s.len ≤ k) :
    Machine.uopTrace k s = pathSteps s.path s.ptr s.len := by
  induction k generalizing s bs with
  | zero => rw [Nat.le_zero.mp hk, pathSteps_zero]; rfl
  | succ k ih =>
    cases hb : s.busy with
    | false => rw [uopTrace_idle hb, (h.completed hb).2, pathSteps_zero]
    | true =>
      obtain ⟨i, hd, hn⟩ := State.nextUop_fits (h.inv.remaining hb)
      obtain ⟨t, ht⟩ := exists_engineStep h.inv
      obtain ⟨xs, ys, rfl, hxl, hfold, hupd⟩ := h.turn hb ht
      have hpos := uopBytes_pos s.nextUop
      have hlen : t.len = s.len - uopBytes s.nextUop := by
        rw [← hupd.length, ← h.length, ← hxl, List.length_append, Nat.add_sub_cancel_left]
      rw [uopTrace_busy hb hd ht, ih hupd (by omega), State.pathSteps_eq_cons hd (h.inv.remaining hb),
        engineStep_path ht, hlen]
      rcases Nat.eq_or_lt_of_le hn with hlast | hmore
      · rw [Nat.sub_eq_zero_of_le hlast.ge, pathSteps_zero, pathSteps_zero]
      · have hr := h.inv.inRange hb
        rw [hfold.ptr, hxl, Nat.mod_eq_of_lt (by omega)]

/-- Settles O49: the run spells the list, and the three lengths are a division with remainder after the prologue. -/
theorem softwarePathStepSequence : Obligations.SoftwarePathStepSequence := by
  intro s bs h hb hp hbs hlen
  have htrace := (h.updating hb hbs hlen).uopTrace le_rfl
  rw [hp] at htrace
  refine ⟨htrace, softwareSteps_lengths _ _, ?_, ?_⟩
  · unfold prologueLen; omega
  · unfold epilogueLen; omega

/-- Settles O50, with the word, half and byte steps of the hardware path. -/
theorem hardwarePathStepSequence : Obligations.HardwarePathStepSequence := by
  intro s bs h hb hp hbs hlen
  have htrace := (h.updating hb hbs hlen).uopTrace le_rfl
  rwa [hp] at htrace

/-- Settles O41: the decoder's answer in each case of the two step rules. -/
theorem sequencerChoosesByAddressAndCount : Obligations.SequencerChoosesByAddressAndCount := by
  intro s
  rcases s.decode_nextUop_cases with ⟨hp, hc, hd⟩ | ⟨hp, ha, hn, hd⟩ | ⟨hp, hn, hd⟩ | ⟨hp, hn, h4, hd⟩ |
      ⟨hp, h2, hd⟩ <;> rw [hd, hp]
  · exact congrArg _ (if_pos hc).symm
  · exact congrArg _ (if_neg (by omega)).symm
  · exact congrArg _ (if_pos hn).symm
  · exact congrArg _ ((if_neg (by omega)).trans (if_pos hn)).symm
  · exact congrArg _ ((if_neg (by omega)).trans (if_neg (by omega))).symm

end Sys2Proof.Machine
end

section
/-! Every accepted `UPDATE` ends (R147): whatever the memory answers, a turn takes bytes off `LEN` or is the last. -/

namespace Sys2Proof.Machine

/-- `t` is idle after an `UPDATE`: it has completed, or a read has got the error response (R147, R175). -/
structure State.Ended (t : State) : Prop where
  idle : t.busy = false
  result : (t.done = true ∧ t.err = false ∧ t.len = 0) ∨ (t.done = false ∧ t.err = true ∧ t.ecode = 4#3)

/-- `BusError` ends the command in its step (R175, R176). -/
theorem State.ended_raise_busError (s : State) : (s.raise .busError).Ended :=
  ⟨rfl, .inr ⟨rfl, rfl, rfl⟩⟩

/-- A busy engine's turn ends the command or leaves fewer bytes (R143, R146, R147). -/
theorem engineStep_ends_or_progresses {s t : State} (h : s.Inv) (hb : s.busy = true) (ht : engineStep s = .next t) :
    t.Ended ∨ (t.busy = true ∧ t.len < s.len) := by
  obtain ⟨n, u, h1, hn, hu, rfl⟩ := engineStep_busy_cases hb ht
  have hn := hn (h.remaining hb)
  cases hu with
  | raises as _ =>
    rw [State.complete_raise]
    exact .inl (State.ended_raise_busError _)
  | retires as v _ _ =>
    have hnoted : (s.noteReads as).Inv := h.accesses _
    rcases Nat.eq_or_lt_of_le hn with hlast | hmore
    · rw [hnoted.retire_last hb v hlast]
      exact .inl ⟨rfl, .inl ⟨rfl, (h.busy hb).1, rfl⟩⟩
    · rw [hnoted.retire_more hb v hmore]
      exact .inr ⟨hb, Nat.sub_lt (h.remaining hb) h1⟩

/-- By induction on the turns, of which there are as many as bytes or more. -/
theorem exists_engineRun_ended {k : Nat} {s : State} (h : s.Inv) (hb : s.busy = true) (hk : s.len ≤ k) :
    ∃ t, engineRun k s = .next t ∧ t.Ended := by
  induction k generalizing s with
  | zero => exact absurd (h.remaining hb) (by omega)
  | succ k ih =>
    obtain ⟨t, ht⟩ := exists_engineStep h
    rw [engineRun_succ k ht]
    rcases engineStep_ends_or_progresses h hb ht with hend | ⟨hb', hlt⟩
    · exact ⟨t, engineRun_idle hend.idle k, hend⟩
    · exact ih (h.engineStep ht) hb' (by omega)

/-- Settles O57: `LEN` turns are enough. -/
theorem updateEndsWithinLenSteps : Obligations.UpdateEndsWithinLenSteps := by
  intro s h hb
  obtain ⟨t, hrun, hend⟩ := exists_engineRun_ended h hb le_rfl
  exact ⟨t, hrun, hend.idle, hend.result⟩

end Sys2Proof.Machine
end

section
/-! The commands of an idle engine, as the state each of their cases leaves (R140, R141, R144, R148, R154). -/

namespace Sys2Proof.Machine

/-! ### `NOP` and `CLRERR` -/

/-- Settles O24: a ready engine runs the decoded command, which answers its state. -/
theorem nopChangesNothing : Obligations.NopChangesNothing := by
  refine ⟨exec_nop, fun s rest hs hi => ?_⟩
  obtain ⟨hb, he⟩ := hs
  exact stepRunsTheCommand s _ rest .nop hb (by simp [he]) hi rfl

/-- Settles O28: in the error state the word of `CLRERR` is the one that is not discarded. -/
theorem clrerrLeavesTheErrorState : Obligations.ClrerrLeavesTheErrorState := by
  refine ⟨exec_clrerr, fun s he hc => ?_, fun s v rest hb he hi => ⟨fun hv => ?_, fun hv => ?_⟩⟩
  · rw [exec_clrerr, execClrerr, State.leaveError, ← he, ← hc]
  · exact stepRunsTheCommand s v rest .clrerr hb (fun _ => hv) hi (by rw [hv]; rfl)
  · rw [step_of_cons hi]
    exact commandWrite_error hb he hv

/-! ### `UPDATE` -/

/-- A precise error of an idle engine writes no flag but `ERR`, `ECODE` and `DONE` (R176). -/
theorem State.enterError_idle {s : State} (hb : s.busy = false) (e : ErrCause) :
    s.enterError e = { s with err := true, ecode := e.code, done := false } := by
  rw [State.enterError, ← hb]

theorem State.acceptInRange_range {s : State} (hb : s.busy = false) (hr : s.params.space < s.ptr + s.len) (p : Path) :
    s.acceptInRange p = { s with err := true, ecode := 3#3, done := false } :=
  (if_pos hr).trans (State.enterError_idle hb .range)

theorem State.acceptInRange_empty {s : State} (hr : s.ptr + s.len ≤ s.params.space) (h0 : s.len = 0) (p : Path) :
    s.acceptInRange p = { s with path := p, done := true } :=
  (if_neg (Nat.not_lt.mpr hr)).trans (if_pos h0)

theorem State.acceptInRange_busy {s : State} (hr : s.ptr + s.len ≤ s.params.space) (h0 : s.len ≠ 0) (p : Path) :
    s.acceptInRange p = { s with path := p, done := false, busy := true } :=
  (if_neg (Nat.not_lt.mpr hr)).trans (if_neg h0)

/-- Settles O25: the three cases of the acceptance, on the software path. -/
theorem updateSwAcceptance : Obligations.UpdateSwAcceptance := fun _ hb =>
  ⟨fun hr => congrArg _ (State.acceptInRange_range hb hr .sw),
    fun hr h0 => congrArg _ (State.acceptInRange_empty hr h0 .sw),
    fun hr h0 => congrArg _ (State.acceptInRange_busy hr h0 .sw)⟩

theorem execUpdateHw_noHw {s : State} (hbuild : s.params.hwBuild = true) (hcap : s.params.hwcap = false) :
    execUpdateHw s = .next (s.raise .noHw) := if_pos ⟨hbuild, hcap⟩

/-- Without the wrapper the command runs the software path (R114). -/
theorem execUpdateHw_noBuild {s : State} (hbuild : s.params.hwBuild = false) : execUpdateHw s = execUpdateSw s := by
  simp [execUpdateHw, execUpdateSw, hbuild]

theorem execUpdateHw_usable {s : State} (hbuild : s.params.hwBuild = true) (hcap : s.params.hwcap = true) :
    execUpdateHw s = .next (s.acceptInRange .hw) := by
  simp [execUpdateHw, hbuild, hcap]

/-- Settles O26: the capability decides first, and with the wrapper usable the three cases of the acceptance are those
of the hardware path. -/
theorem updateHwAcceptance : Obligations.UpdateHwAcceptance := by
  intro s hb
  refine ⟨fun hbuild hcap => ?_, execUpdateHw_noBuild, fun hbuild hcap => ?_⟩
  · exact (execUpdateHw_noHw hbuild hcap).trans (congrArg _ (State.enterError_idle hb .noHw))
  · rw [exec_updateHw, execUpdateHw_usable hbuild hcap]
    exact ⟨fun hr => congrArg _ (State.acceptInRange_range hb hr .hw),
      fun hr h0 => congrArg _ (State.acceptInRange_empty hr h0 .hw),
      fun hr h0 => congrArg _ (State.acceptInRange_busy hr h0 .hw)⟩

/-- Settles O31: with nothing to fold the acceptance does not set `BUSY`, and an idle engine's turns do nothing. -/
theorem zeroLengthUpdateCompletesAtOnce : Obligations.ZeroLengthUpdateCompletesAtOnce := by
  intro s hw h hs hmay h0
  have hr : s.ptr + s.len ≤ s.params.space := by rw [h0]; exact h.ptr.le
  exact ⟨(exec_updateInstr hmay hr).trans (congrArg _ (if_pos h0)), engineRun_idle hs.1⟩

end Sys2Proof.Machine
end

section
/-! `FILESUM` of R162 as a run of the machine: each file read puts its bytes into the buffer, the call over them folds
them onto what `CRC` holds, and so the file is folded buffer by buffer (R152, R164); and the known answers. -/

namespace Sys2Proof.Machine

/-! ### What a run keeps -/

/-- What every step keeps, a run keeps. -/
theorem Reaches.keeps {P : State → Prop} (hstep : ∀ s t, P s → step s = .next t → P t) {s t : State}
    (hst : Reaches s t) (hs : P s) : P t := by
  obtain ⟨k, hk⟩ := hst
  induction k generalizing s with
  | zero => cases hk; exact hs
  | succ k ih =>
    cases hv : step s with
    | next v => exact ih (hstep s v hs hv) ((run_succ (M := Sys2Proof.core) k hv).symm.trans hk)
    | fault r => simp [Host.Core.run, Sys2Proof.core, hv] at hk
    | refused r => simp [Host.Core.run, Sys2Proof.core, hv] at hk

theorem Reaches.inv {s t : State} (hst : Reaches s t) (h : s.Inv) : t.Inv :=
  hst.keeps everyStepKeepsTheInvariant h

theorem Reaches.params {s t : State} (hst : Reaches s t) : t.params = s.params :=
  hst.keeps (P := fun u => u.params = s.params) (fun u v hu hv => (onlyPokesWriteMemory u v hv).1.trans hu) rfl

/-! ### A file read -/

/-- `t` comes from `s` by a file read that put `bs` at `a`: the bytes stand there, those below are as they were, and of
the engine `CRC` and the flags an `UPDATE` needs are unchanged (R162). -/
structure State.Loaded (s : State) (a : Nat) (bs : List Byte) (t : State) : Prop where
  crc : t.crc = s.crc
  busy : t.busy = s.busy
  err : t.err = s.err
  bytes : t.holds a bs
  below : ∀ x < a, t.readByte x = s.readByte x

/-- The first byte is set, and the rest of the read, above it, leaves it standing. -/
theorem State.Loaded.cons {s t : State} {a : Nat} {b : Byte} {bs : List Byte} (ha : a < s.params.space)
    (h : (s.poke a (some b)).Loaded (a + 1) bs t) : s.Loaded a (b :: bs) t where
  crc := h.crc
  busy := h.busy
  err := h.err
  bytes := by
    have hb : t.readByte a = some b := by
      rw [h.below a (Nat.lt_succ_self a), State.readByte_poke s a _ ha, if_pos rfl]
    exact State.readBytes_succ_eq_some.mpr ⟨b, bs, hb, h.bytes, rfl⟩
  below x hx := by
    rw [h.below x (Nat.lt_succ_of_lt hx), State.readByte_poke s x _ ha, if_neg hx.ne]

/-- The bytes of a file read arrive where they fit into the buffer space. -/
theorem exists_loaded {bs : List Byte} {s : State} {a : Nat} {rest : List Event}
    (hr : a + bs.length ≤ s.params.space) (hi : s.inbox = loadBytes a bs ++ rest) :
    ∃ t, Reaches s t ∧ t.inbox = rest ∧ s.Loaded a bs t := by
  induction bs generalizing s a with
  | nil => exact ⟨s, .refl s, hi, rfl, rfl, rfl, rfl, fun _ _ => rfl⟩
  | cons b bs ih =>
    rw [List.length_cons] at hr
    have ha : a < s.params.space := by omega
    obtain ⟨t, ht, hti, hload⟩ :=
      ih (s := (s.withInbox (loadBytes (a + 1) bs ++ rest)).poke a (some b)) (a := a + 1)
        (by change a + 1 + bs.length ≤ s.params.space; omega) rfl
    have hcons := State.Loaded.cons (s := s.withInbox (loadBytes (a + 1) bs ++ rest)) ha hload
    exact ⟨t, .event hi (handle_poke_inside _ ha) ht, hti, hcons.crc, hcons.busy, hcons.err, hcons.bytes, hcons.below⟩

/-! ### One buffer of a file -/

/-- The host may go on with a file: a ready engine, a path that may be used, and a buffer of `cap ≥ 1` bytes at `buf`
that `LEN` can count and that lies in the buffer space (R162, R216). -/
structure State.CanSum (s : State) (buf cap : Nat) (hw : Bool) : Prop where
  inv : s.Inv
  ready : s.ready
  may : s.mayUse hw
  pos : 0 < cap
  count : cap < s.params.space
  range : buf + cap ≤ s.params.space

/-- Whatever the run before, it is enough that the engine is ready again. -/
theorem State.CanSum.of_reaches {s t : State} {buf cap : Nat} {hw : Bool} (h : s.CanSum buf cap hw)
    (hst : Reaches s t) (ht : t.ready) : t.CanSum buf cap hw where
  inv := hst.inv h.inv
  ready := ht
  may := by simpa only [State.mayUse, hst.params] using h.may
  pos := h.pos
  count := hst.params ▸ h.count
  range := hst.params ▸ h.range

/-- The read that fills some of the buffer. -/
theorem State.CanSum.load {s : State} {buf cap : Nat} {hw : Bool} (h : s.CanSum buf cap hw) {bs : List Byte}
    (hbs : bs.length ≤ cap) {rest : List Event} (hi : s.inbox = loadBytes buf bs ++ rest) :
    ∃ t, Reaches s t ∧ t.CanSum buf cap hw ∧ t.inbox = rest ∧ t.crc = s.crc ∧ t.holds buf bs := by
  obtain ⟨t, hst, hti, hload⟩ := exists_loaded (by have := h.range; omega) hi
  exact ⟨t, hst, h.of_reaches hst ⟨hload.busy.trans h.ready.1, hload.err.trans h.ready.2⟩, hti, hload.crc, hload.bytes⟩

/-- The host's call over a buffer: with a seed it writes `CRC` first (R160). -/
def seqCall (seed : Option Word) (a n : Nat) (hw : Bool) : List Event :=
  match seed with
  | none => seqContinue a n hw
  | some c => seqUpdate c a n hw

/-- The call over bytes that stand in the buffer folds them, from the seed where there is one. -/
theorem State.CanSum.call {s : State} {buf cap : Nat} {hw : Bool} (h : s.CanSum buf cap hw) {bs : List Byte}
    (hbs : bs.length ≤ cap) (hbytes : s.holds buf bs) (seed : Option Word) {rest : List Event}
    (hi : s.inbox = seqCall seed buf bs.length hw ++ rest) :
    ∃ t, Reaches s t ∧ t.Returned (fold (seed.getD s.crc) bs) rest := by
  have hpos := h.pos
  have hcount := h.count
  have hrange := h.range
  have hbuf : buf < s.params.space := by omega
  have hn : bs.length < s.params.space := by omega
  have hr : buf + bs.length ≤ s.params.space := by omega
  cases seed with
  | none => exact exists_returned_of_seqContinue h.inv h.ready h.may hbuf hn hr hbytes hi
  | some c =>
    obtain ⟨k, t, hrun, hti, htc, hread, hready, hdone⟩ :=
      synchronousCallReturnsTheFold s c buf _ hw bs rest h.inv h.ready h.may hbuf hn hr hbytes rfl hi
    exact ⟨t, ⟨k, hrun⟩, hti, htc, hread, hready, hdone⟩

/-- A read into the buffer and the call over it. -/
theorem State.CanSum.readAndCall {s : State} {buf cap : Nat} {hw : Bool} (h : s.CanSum buf cap hw) {bs : List Byte}
    (hbs : bs.length ≤ cap) (seed : Option Word) {rest : List Event}
    (hi : s.inbox = loadBytes buf bs ++ (seqCall seed buf bs.length hw ++ rest)) :
    ∃ t, Reaches s t ∧ t.CanSum buf cap hw ∧ t.Returned (fold (seed.getD s.crc) bs) rest := by
  obtain ⟨t, hst, ht, hti, htc, hbytes⟩ := h.load hbs hi
  obtain ⟨u, htu, hret⟩ := ht.call hbs hbytes seed hti
  exact ⟨u, hst.trans htu, ht.of_reaches htu hret.ready, htc ▸ hret⟩

/-! ### The whole file -/

/-- The events of a file whose reads are `chunks` and then `last`, each folded by a call; only the first call may have
a seed. The read of `CRC` ends them (R162). -/
def seqFile (buf : Nat) (hw : Bool) (last : List Byte) : Option Word → List (List Byte) → List Event
  | seed, [] => loadBytes buf last ++ (seqCall seed buf last.length hw ++ [.read .crc])
  | seed, bs :: chunks => loadBytes buf bs ++ (seqCall seed buf bs.length hw ++ seqFile buf hw last none chunks)

/-- The loop of R162, over reads that fill the buffer and one that does not. -/
theorem seqFileLoop_eq_seqFile {buf cap : Nat} {hw : Bool} {chunks : List (List Byte)} {last : List Byte}
    (hfull : ∀ c ∈ chunks, c.length = cap) (hlast : last.length < cap) :
    seqFileLoop buf cap hw (chunks.map .data ++ [.data last]) = (seqFile buf hw last none chunks, .checksum) := by
  induction chunks with
  | nil => simp [seqFileLoop, seqFile, seqCall, hlast]
  | cons bs chunks ih =>
    obtain ⟨hbs, hfull⟩ := List.forall_mem_cons.mp hfull
    simp [seqFileLoop, seqFile, seqCall, hbs, ih hfull]

/-- `FILESUM` from offset 0 differs from its loop in the seed alone. -/
theorem seqFilesum_eq_seqFile {buf cap : Nat} {hw : Bool} {chunks : List (List Byte)} {last : List Byte}
    (hfull : ∀ c ∈ chunks, c.length = cap) (hlast : last.length < cap) :
    seqFilesum buf cap 0 hw (chunks.map .data ++ [.data last]) =
      (seqFile buf hw last (some Config.initialCrc) chunks, .checksum) := by
  cases chunks with
  | nil => simp [seqFilesum, seqFile, seqCall, hlast.ne]
  | cons bs chunks =>
    obtain ⟨hbs, hfull⟩ := List.forall_mem_cons.mp hfull
    simp [seqFilesum, seqFile, seqCall, hbs, seqFileLoop_eq_seqFile hfull hlast]

/-- A file is folded buffer by buffer: by induction on the reads that fill the buffer, each of which leaves its fold in
`CRC` for the next call (R152, R164). -/
theorem State.CanSum.file {s : State} {buf cap : Nat} {hw : Bool} {chunks : List (List Byte)} {last : List Byte}
    (h : s.CanSum buf cap hw) (hfull : ∀ c ∈ chunks, c.length = cap) (hlast : last.length < cap) (seed : Option Word)
    {rest : List Event} (hi : s.inbox = seqFile buf hw last seed chunks ++ rest) :
    ∃ t, Reaches s t ∧ t.Returned (fold (seed.getD s.crc) (chunks.flatten ++ last)) rest := by
  induction chunks generalizing s seed with
  | nil =>
    simp only [seqFile, List.append_assoc] at hi
    obtain ⟨t, hst, -, hret⟩ := h.readAndCall hlast.le seed hi
    obtain ⟨u, htu, hread⟩ := State.Returned.of_read hret.inbox hret.crc hret.ready hret.done
    exact ⟨u, hst.trans htu, hread⟩
  | cons bs chunks ih =>
    obtain ⟨hbs, hfull⟩ := List.forall_mem_cons.mp hfull
    simp only [seqFile, List.append_assoc] at hi
    obtain ⟨t, hst, ht, hret⟩ := h.readAndCall hbs.le seed hi
    obtain ⟨u, htu, hend⟩ := ih ht hfull none hret.inbox
    rw [Option.getD_none, hret.crc, fold_append] at hend
    rw [List.flatten_cons, List.append_assoc]
    exact ⟨u, hst.trans htu, hend⟩

/-- Settles O60: the sequence is a file's with the seed in its first call. -/
theorem filesumReturnsTheFoldOfTheFile : Obligations.FilesumReturnsTheFoldOfTheFile := by
  intro s buf cap hw chunks last rest h hs hmay hcount hr hfull hlast hi
  have hsum : s.CanSum buf cap hw := ⟨h, hs, hmay, Nat.zero_lt_of_lt hlast, hcount, hr⟩
  rw [seqFilesum_eq_seqFile hfull hlast] at hi ⊢
  obtain ⟨t, ⟨k, hk⟩, hret⟩ := hsum.file hfull hlast _ hi
  exact ⟨rfl, k, t, hk, hret.inbox, hret.read⟩

/-! ### Known answers -/

/-- Settles O15: every vector is a fixed list of bytes, so its fold is evaluated, table lookups included. -/
theorem knownAnswers : Obligations.KnownAnswers := by
  unfold Obligations.KnownAnswers
  decide +kernel

end Sys2Proof.Machine
end

section
/-! The errors of a command (R172 to R174) and the order in which a write of `CMD` is judged (R177). -/

namespace Sys2Proof.Machine

/-! ### `Range` -/

/-- An `UPDATE` that the host may issue, over a buffer past the top of the space, is refused (R174). -/
theorem exec_updateInstr_range {s : State} {hw : Bool} (hb : s.busy = false) (h : s.mayUse hw)
    (hr : s.params.space < s.ptr + s.len) :
    exec (updateInstr hw) s = .next { s with err := true, ecode := 3#3, done := false } := by
  cases hw with
  | false => exact congrArg _ (State.acceptInRange_range hb hr .sw)
  | true =>
    rcases execUpdateHw_cases s with ⟨hbuild, hcap, -⟩ | ⟨-, he⟩ | ⟨-, -, he⟩
    · exact nomatch hcap.symm.trans (h rfl hbuild)
    · exact he.trans (congrArg _ (State.acceptInRange_range hb hr .sw))
    · exact he.trans (congrArg _ (State.acceptInRange_range hb hr .hw))

/-- Settles O27: past the top an `UPDATE` is refused, and up to it accepted, which leaves the error flags and the
datapath registers. -/
theorem rangeIsTheIntegerSum : Obligations.RangeIsTheIntegerSum := by
  intro s hw hb he hmay
  refine ⟨exec_updateInstr_range hb hmay, fun hr => ?_, fun hp h0 => by omega⟩
  exact ⟨s.accept (s.pathOf hw), exec_updateInstr hmay hr, (s.accept_err _).trans he, s.accept_ecode _,
    s.accept_crc _, s.accept_ptr _, s.accept_len _⟩

/-! ### `IllegalCmd` -/

/-- The step takes the write of a command word and judges it (R113). -/
theorem step_writeCmd {s : State} {w : Word} {rest : List Event} (hi : s.inbox = .write .cmd w.toNat :: rest) :
    step s = commandWrite w { s with inbox := rest } := by
  rw [step_of_cons hi, handle_write, hostWrite_cmd, BitVec.ofNat_toNat, BitVec.setWidth_eq]

/-- A word that is none of the four commands, not discarded, raises `IllegalCmd` (R172). -/
theorem commandWrite_noCommand {s : State} {w : Word} (hs : s.ready) (h0 : w ≠ 0x00000000#32)
    (h1 : w ≠ 0x00000001#32) (h3 : w ≠ 0x00000003#32) (h4 : w ≠ 0x00000004#32) :
    commandWrite w s = .next (s.enterError .illegalCmd) := by
  rcases decode_cmd_cases w with ⟨h, -⟩ | ⟨h, -⟩ | ⟨h, -⟩ | ⟨h, -⟩ | ⟨-, -, -, -, hd⟩
  · exact absurd h h0
  · exact absurd h h1
  · exact absurd h h3
  · exact absurd h h4
  · exact commandWrite_illegal hs.1 hs.2 hd

/-- Settles O29: the step raises `IllegalCmd`, a precise error, which writes the flags and the code only. -/
theorem illegalWordRaisesIllegalCmd : Obligations.IllegalWordRaisesIllegalCmd := by
  intro s v rest hs hi h0 h1 h3 h4
  exact (step_writeCmd hi).trans (commandWrite_noCommand hs h0 h1 h3 h4)

/-! ### The order of R177 -/

/-- A ready engine's write of `UPDATE.HW` without the capability raises `NoHw`, before any look at `PTR` and `LEN`
(R173). -/
theorem commandWrite_noHw {s : State} (hs : s.ready) (hbuild : s.params.hwBuild = true)
    (hcap : s.params.hwcap = false) :
    commandWrite 0x00000003#32 s = .next { s with err := true, ecode := 2#3, done := false } :=
  (handle_issueUpdate hs true).trans ((updateHwAcceptance s hs.1).1 hbuild hcap)

/-- A ready engine's write of an `UPDATE` that passes the capability check raises `Range` past the top (R174). -/
theorem commandWrite_range {s : State} {w : Word} (hs : s.ready) (hw : w = 0x00000001#32 ∨ w = 0x00000003#32)
    (hmay : w = 0x00000003#32 → s.mayUse true) (hr : s.params.space < s.ptr + s.len) :
    commandWrite w s = .next { s with err := true, ecode := 3#3, done := false } := by
  rcases hw with rfl | rfl
  · exact (handle_issueUpdate hs false).trans (exec_updateInstr_range hs.1 nofun hr)
  · exact (handle_issueUpdate hs true).trans (exec_updateInstr_range hs.1 (hmay rfl) hr)

/-- A word other than `CLRERR`'s that an idle engine does not discard finds it ready (R177). -/
theorem State.ready_of_not_discarded {s : State} {w : Word} (hb : s.busy = false)
    (hd : ¬ (s.err = true ∧ w ≠ 0x00000004#32)) (h4 : w ≠ 0x00000004#32) : s.ready :=
  ⟨hb, by simpa [h4] using hd⟩

/-- A command that is not discarded and passes its checks is executed, and leaves no error (R177). -/
theorem exists_exec_noError {s : State} {w : Word} (hb : s.busy = false) (hd : ¬ (s.err = true ∧ w ≠ 0x00000004#32))
    (hword : ¬ (w ≠ 0x00000000#32 ∧ w ≠ 0x00000001#32 ∧ w ≠ 0x00000003#32 ∧ w ≠ 0x00000004#32))
    (hmay : w = 0x00000003#32 → s.mayUse true)
    (hr : w = 0x00000001#32 ∨ w = 0x00000003#32 → s.ptr + s.len ≤ s.params.space) :
    ∃ i t, decode (.cmd w) = .ok i ∧ exec i s = .next t ∧ t.err = false := by
  have he (h4 : w ≠ 0x00000004#32) : s.err = false := (State.ready_of_not_discarded hb hd h4).2
  rcases decode_cmd_cases w with ⟨rfl, hi⟩ | ⟨rfl, hi⟩ | ⟨rfl, hi⟩ | ⟨-, hi⟩ | ⟨h0, h1, h3, h4, -⟩
  · exact ⟨.nop, s, hi, exec_nop s, he (by decide)⟩
  · exact ⟨.updateSw, _, hi, exec_updateInstr (hw := false) nofun (hr (.inl rfl)),
      (s.accept_err _).trans (he (by decide))⟩
  · exact ⟨.updateHw, _, hi, exec_updateInstr (hw := true) (hmay rfl) (hr (.inr rfl)),
      (s.accept_err _).trans (he (by decide))⟩
  · exact ⟨.clrerr, _, hi, exec_clrerr s, s.leaveError_err⟩
  · exact absurd ⟨h0, h1, h3, h4⟩ hword

/-- Settles O30: a test of the rule that applies has its lemma, and the tests before it have failed, so the engine is
ready where an error is raised. -/
theorem commandWritePriority : Obligations.CommandWritePriority := by
  intro s w rest hi
  rw [step_writeCmd hi]
  by_cases hb : s.busy = true
  · rw [if_pos hb]
    exact commandWrite_busy w hb
  rw [if_neg hb]
  rw [Bool.not_eq_true] at hb
  by_cases hd : s.err = true ∧ w ≠ 0x00000004#32
  · rw [if_pos hd]
    exact commandWrite_error hb hd.1 hd.2
  rw [if_neg hd]
  have hready (h4 : w ≠ 0x00000004#32) : State.ready { s with inbox := rest } :=
    State.ready_of_not_discarded hb hd h4
  split_ifs with hword hno hrange
  · obtain ⟨h0, h1, h3, h4⟩ := hword
    exact (commandWrite_noCommand (hready h4) h0 h1 h3 h4).trans
      (congrArg _ (State.enterError_idle (hready h4).1 .illegalCmd))
  · obtain ⟨rfl, hbuild, hcap⟩ := hno
    exact commandWrite_noHw (hready (by decide)) hbuild hcap
  all_goals have hmay (h3 : w = 0x00000003#32) : s.mayUse true := fun _ hbuild => by simpa [h3, hbuild] using hno
  · obtain ⟨hw, hr⟩ := hrange
    have h4 : w ≠ 0x00000004#32 := by rintro rfl; simp at hw
    exact commandWrite_range (hready h4) hw hmay hr
  · obtain ⟨i, t, hi, ht, herr⟩ := exists_exec_noError (s := { s with inbox := rest }) hb hd hword hmay
      fun hw => Nat.not_lt.mp fun hr => hrange ⟨hw, hr⟩
    have hrun : commandWrite w { s with inbox := rest } = exec i { s with inbox := rest } :=
      commandWrite_decoded hb (fun he => by_contra fun h4 => hd ⟨he, h4⟩) hi
    exact ⟨i, t, hi, ht, hrun.trans ht, herr⟩

end Sys2Proof.Machine
end

section
/-! The host's accesses to a busy engine, which can neither change it nor see its datapath registers (R210, R211), and
the reset event (R200). -/

namespace Sys2Proof.Machine

/-! ### Reads while busy -/

/-- R211: what a busy datapath register yields is not known, but it is cut to the register's width. -/
theorem State.readData_busy_lt {s : State} (hb : s.busy = true) (value width : Nat) :
    s.readData value width < 2 ^ width := by
  rw [State.readData, if_pos hb]
  exact Nat.mod_lt _ (Nat.two_pow_pos width)

/-- `STATUS` reads normally while busy, with `BUSY` as its lowest bit (R27, R211). -/
theorem State.statusWord_toNat_busy {s : State} (hb : s.busy = true) :
    s.statusWord.toNat = 1 + 2 * s.done.toNat + 4 * s.err.toNat + 8 * s.ecode.toNat +
      64 * s.params.hwcap.toNat + 128 * s.params.hwBuild.toNat := by
  rw [State.statusWord_toNat, hb, Bool.toNat_true]

/-- Settles O33: a datapath register draws a free value of its width; every other register reads normally. -/
theorem busyRegisterRead : Obligations.BusyRegisterRead := by
  intro s r rest hb hi
  refine ⟨s.readValue r, if s.readDraws r then s.draws + 1 else s.draws, step_of_cons hi, ?_⟩
  refine ⟨?crc, ?ptr, ?len, ?cmd, ?status, ?reserved5, ?reserved6, ?reserved7⟩ <;> rintro rfl
  case crc | ptr | len => exact ⟨State.readData_busy_lt hb _ _, if_pos hb⟩
  case status => exact ⟨State.statusWord_toNat_busy hb, rfl⟩
  case cmd | reserved5 | reserved6 | reserved7 => exact ⟨rfl, rfl⟩

/-! ### Writes while busy -/

/-- R210: the write of a datapath register and of `CMD` meets `BUSY` first; no other register takes a write. -/
theorem hostWrite_busy {s : State} (hb : s.busy = true) (r : Reg) (v : Nat) : hostWrite r v s = .next s := by
  cases r with
  | crc | ptr | len => exact congrArg _ (if_pos hb)
  | cmd => exact commandWrite_busy _ hb
  | status | reserved5 | reserved6 | reserved7 => rfl

/-- Settles O36: the step takes the write off the inbox, and the busy engine discards it. -/
theorem busyWritesAreDiscarded : Obligations.BusyWritesAreDiscarded :=
  fun s r v rest hb hi => (step_of_cons hi).trans (hostWrite_busy (s := { s with inbox := rest }) hb r v)

/-! ### The reset event -/

/-- The step takes the reset event, whatever the engine was doing (R200). -/
theorem step_reset {s : State} {rest : List Event} (hi : s.inbox = .reset :: rest) :
    step s = .next (State.resetEvent { s with inbox := rest }) :=
  step_of_cons hi

/-- Settles O37: reset draws free values cut to their widths, and leaves an idle engine, whose turns change nothing. -/
theorem resetEventClearsTheFlags : Obligations.ResetEventClearsTheFlags := by
  intro s rest hi
  have hlt (x : Nat) : x % s.params.space < s.params.space := Nat.mod_lt x (Params.space_pos s.params)
  refine ⟨_, _, _, _, hlt _, hlt _, step_reset hi, fun n t ht => ?_⟩
  obtain rfl : State.resetEvent { s with inbox := rest } = t := Host.Outcome.next.inj ((step_reset hi).symm.trans ht)
  exact engineRun_idle (State.resetEvent_busy _) n

end Sys2Proof.Machine
end
